-- ==== Sys2Proof/Word.lean ====
section
/-! DEFINITION. The word and byte types (R5: every wire word is 32 bits, bit 31 first on the wire). -/

namespace Sys2Proof

/-- A wire word: 32 bits, bit 31 the most significant and first on the wire (R5). -/
abbrev Word := BitVec 32

/-- A byte of the byte view of a span (R42). -/
abbrev Byte := BitVec 8

end Sys2Proof
end

