-- ==== Sys2Proof/Machine/Records.lean ====
section
/-! DEFINITION. The result records of 10_state.md (R14 to R20), the LOG flags (R25) and the fault codes (R302),
as plain data. -/

namespace Sys2Proof.Machine

/-- `SAMP` (R14): the four values are integers in -1..1023, -1 the sentinel of an unpopulated field. -/
structure Samp where
  tc : Bool
  tp : Bool
  adcTm1 : Int
  adc : Int
  tot : Int
  toa : Int
  word : Word
  deriving DecidableEq, Repr, Inhabited

/-- A `LINK` record (R15): a DAQ link frame or one eRx link of an ECON-D packet. -/
structure Link where
  bx : BitVec 12
  event : BitVec 6
  orbit : BitVec 3
  corruption : Vector Bool 6
  evtFlag : BitVec 4
  firstEvent : Bool
  adcCm0 : BitVec 10
  adcCm1 : BitVec 10
  ch : Vector Word 36
  calib : Word
  crcWord : Word
  stat : BitVec 3
  ham : BitVec 3
  isEmpty : Bool
  chmap : BitVec 37
  code : Vector (BitVec 4) 37
  nwords : Nat
  deriving DecidableEq, Repr, Inhabited

/-- `LINK0` (R15): the all-zero `LINK` record. -/
def Link.zero : Link where
  bx := 0#12
  event := 0#6
  orbit := 0#3
  corruption := Vector.replicate 6 false
  evtFlag := 0#4
  firstEvent := false
  adcCm0 := 0#10
  adcCm1 := 0#10
  ch := Vector.replicate 36 0#32
  calib := 0#32
  crcWord := 0#32
  stat := 0#3
  ham := 0#3
  isEmpty := false
  chmap := 0#37
  code := Vector.replicate 37 0#4
  nwords := 0

/-- A `TRIGF` record (R17). -/
structure Trigf where
  softHeader : Word
  data : Vector Word 4
  syncBad : Vector Bool 4
  deriving DecidableEq, Repr, Inhabited

/-- `TRIGF0` (R17). -/
def Trigf.zero : Trigf where
  softHeader := 0#32
  data := Vector.replicate 4 0#32
  syncBad := Vector.replicate 4 false

/-- The `ROC` record (R18). -/
structure Roc where
  totalLen : Word
  linkLen : Vector (BitVec 16) 6
  daq : Vector Link 2
  trig : Vector Trigf 4
  trigOff : Vector Nat 4
  endOff : Nat
  deriving DecidableEq, Repr, Inhabited

/-- The `ROC` record after reset (R30). -/
def Roc.zero : Roc where
  totalLen := 0#32
  linkLen := Vector.replicate 6 0#16
  daq := Vector.replicate 2 Link.zero
  trig := Vector.replicate 4 Trigf.zero
  trigOff := Vector.replicate 4 0
  endOff := 0

/-- An `ECOND` record (R19). `links` holds exactly the links the last parse was configured for.
DESIGN CHOICE (log 21): the record has the four flags `corruption[0..3]` of R19; the flags `[4]`, `[5]` that D30 gives the
value 0 have no storage. -/
structure Econd where
  marker : BitVec 9
  length : BitVec 9
  passthrough : Bool
  expected : Bool
  ht : BitVec 2
  ebo : BitVec 2
  m : Bool
  truncated : Bool
  hamming : BitVec 6
  bx : BitVec 12
  l1a : BitVec 6
  orbit : BitVec 3
  subpacketError : Bool
  rr : BitVec 2
  crc8 : BitVec 8
  corruption : Vector Bool 4
  links : List Link
  trailer : Word
  nwords : Nat
  deriving DecidableEq, Repr, Inhabited

/-- The `ECOND` record after reset, with `n` links (R30). -/
def Econd.zero (n : Nat) : Econd where
  marker := 0#9
  length := 0#9
  passthrough := false
  expected := false
  ht := 0#2
  ebo := 0#2
  m := false
  truncated := false
  hamming := 0#6
  bx := 0#12
  l1a := 0#6
  orbit := 0#3
  subpacketError := false
  rr := 0#2
  crc8 := 0#8
  corruption := Vector.replicate 4 false
  links := List.replicate n Link.zero
  trailer := 0#32
  nwords := 0

/-- One sample of the `MS` record (R20). -/
structure MsSample where
  flag : BitVec 4
  iSample : BitVec 11
  soi : Bool
  length : BitVec 16
  packet : Econd
  deriving DecidableEq, Repr, Inhabited

/-- The `MS` record (R20): `n_samples` is the number of samples listed. -/
structure Ms where
  samples : List MsSample
  iSoi : Int
  deriving DecidableEq, Repr, Inhabited

/-- `MS` after reset (R30): no sample, `i_soi` -1. -/
def Ms.zero : Ms where
  samples := []
  iSoi := -1

/-- `MS.n_samples` (R20). -/
def Ms.nSamples (m : Ms) : Nat := m.samples.length

/-- The sticky `LOG` bits (R25). -/
structure Log where
  invalidCode : Bool
  codeErr : Bool
  syncWarn : Bool
  badCmd : Bool
  hdrWarn : Bool
  deriving DecidableEq, Repr, Inhabited

/-- Every `LOG` bit 0 (R30, R322). -/
def Log.zero : Log where
  invalidCode := false
  codeErr := false
  syncWarn := false
  badCmd := false
  hdrWarn := false

/-- The three structural errors (R302). -/
inductive FaultKind where
  /-- A read, slice, seek or write would pass the end of its buffer, or the stream ended inside a packet. -/
  | lengthError
  /-- A span or a length word does not have the size the format requires. -/
  | badLength
  /-- An operation argument out of range, a formatter call out of order, a record capacity exceeded. -/
  | badFormat
  deriving DecidableEq, Repr, Inhabited

/-- The 2-bit value of the `FAULT` register (R27, R302). -/
def FaultKind.code : Option FaultKind → BitVec 2
  | none => 0#2
  | some .lengthError => 1#2
  | some .badLength => 2#2
  | some .badFormat => 3#2

end Sys2Proof.Machine
end

