-- ==== Sys2Proof/Config.lean ====
section
/-! DEFINITION. The implementation parameters of 00_scope.md R4 with their defaults, the content of the stream,
and the free values: opaque constants without a body, so that nothing can be proved of their values. -/

namespace Sys2Proof

/-- `CRC8_BASE` (R4, R217). -/
inductive Crc8Base where
  | baseA
  | baseB
  deriving DecidableEq, Repr, Inhabited

/-- `TRIG_SUM_ORDER` (R4, R164). -/
inductive TrigSumOrder where
  | msbFirst
  | lsbFirst
  deriving DecidableEq, Repr, Inhabited

/-- `LEN_TABLE_ORDER` (R4, R242). -/
inductive LenTableOrder where
  | upperFirst
  | lowerFirst
  deriving DecidableEq, Repr, Inhabited

/-- `CHMAP_ORDER` (R4, R179). -/
inductive ChmapOrder where
  | bitCIsSlotC
  | bit36MinusC
  deriving DecidableEq, Repr, Inhabited

/-- `PASSTHROUGH_HEADER_WORDS` (R4, R180): 1 or 2. -/
inductive PtHeader where
  | one
  | two
  deriving DecidableEq, Repr, Inhabited

/-- `DAQ_FLAG_ORDER` (R4, R63): which of header bits 6, 5, 4 goes to which of `corruption[2..4]`. -/
inductive DaqFlagOrder where
  | to234
  | to432
  deriving DecidableEq, Repr, Inhabited

/-- `FMT_FIDELITY` (R4, R264). -/
inductive FmtFidelity where
  | sourcePlaceholder
  | bitExact
  deriving DecidableEq, Repr, Inhabited

/-- A bit range `[hi:lo]` of a word (R5). -/
structure BitRange where
  hi : Nat
  lo : Nat
  deriving DecidableEq, Repr, Inhabited

/-- `MS_LAYOUT` (R4, R84): the four bit ranges of a per-sample header word. -/
structure MsLayout where
  flag : BitRange
  index : BitRange
  soi : BitRange
  length : BitRange
  deriving DecidableEq, Repr, Inhabited

/-- The parameters of R4. `CRC32_POLY` is fixed and stands in Machine/Crc.lean; `CFG_ZS_EN` is a register. -/
structure Params where
  nLinks : Nat
  ibufWords : Nat
  obufWords : Nat
  maxSamples : Nat
  maxWindow : Nat
  crc8Poly : BitVec 8
  crc8Base : Crc8Base
  trigSyncSet : List (BitVec 4)
  trigSumOrder : TrigSumOrder
  lenTableOrder : LenTableOrder
  chmapOrder : ChmapOrder
  ptHeader : PtHeader
  daqFlagOrder : DaqFlagOrder
  msLayout : MsLayout
  econdMarker : BitVec 9
  fmtStat : BitVec 3
  fmtHam : BitVec 3
  fmtFidelity : FmtFidelity
  deriving DecidableEq, Repr, Inhabited

/-- The default `MS_LAYOUT` of R4: flag [31:28], index [27:17], SOI [16], length [15:0]. -/
def MsLayout.default : MsLayout where
  flag := ⟨31, 28⟩
  index := ⟨27, 17⟩
  soi := ⟨16, 16⟩
  length := ⟨15, 0⟩

/-- The defaults of R4. -/
def Params.default : Params where
  nLinks := 12
  ibufWords := 65536
  obufWords := 471
  maxSamples := 16
  maxWindow := 65536
  crc8Poly := 0xA7#8
  crc8Base := .baseB
  trigSyncSet := [0b1010#4, 0b1001#4]
  trigSumOrder := .msbFirst
  lenTableOrder := .upperFirst
  chmapOrder := .bitCIsSlotC
  ptHeader := .two
  daqFlagOrder := .to234
  msLayout := MsLayout.default
  econdMarker := 0x154#9
  fmtStat := 0#3
  fmtHam := 0#3
  fmtFidelity := .sourcePlaceholder

/-- A bit range of exactly `n` bits inside a word. -/
def BitRange.hasWidth (r : BitRange) (n : Nat) : Bool :=
  decide (r.hi + 1 = r.lo + n) && decide (r.hi < 32)

/-- Two bit ranges share no bit. -/
def BitRange.apart (r q : BitRange) : Bool :=
  decide (r.hi < q.lo) || decide (q.hi < r.lo)

/-- A layout whose four ranges have the widths of the registers they fill (R20) and do not overlap. -/
def MsLayout.wf (l : MsLayout) : Bool :=
  l.flag.hasWidth 4 && l.index.hasWidth 11 && l.soi.hasWidth 1 && l.length.hasWidth 16
    && l.flag.apart l.index && l.flag.apart l.soi && l.flag.apart l.length
    && l.index.apart l.soi && l.index.apart l.length && l.soi.apart l.length

/-- The ranges R4 and R283 give the parameters: `N_LINKS` in 1..12, `MAX_WINDOW <= IBUF_WORDS`, a layout of the
right widths, and an output buffer that holds at least the two header words `FMT_START` writes without a fault
(R257). -/
def Params.wf (p : Params) : Bool :=
  decide (1 ≤ p.nLinks) && decide (p.nLinks ≤ 12) && decide (p.maxWindow ≤ p.ibufWords)
    && decide (2 ≤ p.obufWords) && p.msLayout.wf

/-- The content of the stream `STRM` (R280: a finite or infinite sequence of words fixed before the first
operation): `words`, then `cycle` over and over; finite exactly when `cycle` is empty (log 13). -/
structure Stream where
  words : List Word
  cycle : List Word
  deriving DecidableEq, Repr, Inhabited

/-- Word `i` of the stream, counted from 0; none past the end of a finite one. -/
def Stream.word (st : Stream) (i : Nat) : Option Word :=
  if i < st.words.length then st.words[i]? else st.cycle[(i - st.words.length) % st.cycle.length]?

/-- Up to `n` words of the stream from word `i` on; fewer only where a finite stream ends. -/
def Stream.read (st : Stream) (i : Nat) : (n : Nat) → List Word
  | 0 => []
  | n + 1 =>
    match st.word i with
    | none => []
    | some w => w :: Stream.read st (i + 1) n

/-- A number of words from word `i` on that shows every word and every adjacent pair the stream has from there on, and
every one it has from the word after `i` on: the rest of `words`, one round of `cycle`, and two words after it. -/
def Stream.horizon (st : Stream) (i : Nat) : Nat :=
  (st.words.length - i) + st.cycle.length + 2

/-! The free values (R303, R214, U2, U6): `n` is the number of draws made before. -/

/-- A free natural number (a cursor after a fault). -/
opaque Config.freeNat : Nat → Nat
/-- A free bit (`ECOND.corruption[0]`, `[1]`). -/
opaque Config.freeBit : Nat → Bool
/-- A free word (`RES`, `CRCR.crc32` after a fault). -/
opaque Config.freeWord : Nat → Word
/-- A free `LINK` record. -/
opaque Config.freeLink : Nat → Machine.Link
/-- A free `TRIGF` record. -/
opaque Config.freeTrigf : Nat → Machine.Trigf
/-- A free `ROC` record. -/
opaque Config.freeRoc : Nat → Machine.Roc
/-- A free `ECOND` record. -/
opaque Config.freeEcond : Nat → Machine.Econd
/-- A free `MS` record. -/
opaque Config.freeMs : Nat → Machine.Ms
/-- A free buffer content, as a list of byte writes. -/
opaque Config.freeCells : Nat → List Host.Cell

end Sys2Proof
end

