-- ==== Sys2Proof/Syntax.lean ====
section
/-! DEFINITION. The instructions: one constructor for each row of spec/opcode_table.json, and the coded forms
the decoder reads and the encoder writes. A wire element's fields are those of its row; an element that occurs
several times in a frame also carries its position there (R47). -/

namespace Sys2Proof

/-- One constructor per row of the opcode table. -/
inductive Instr where
  /-- `SAMPLE` (R62, R121). -/
  | sample (tc tp : Bool) (a m t : BitVec 10)
  /-- `DAQ.HDR` (R63, R137). -/
  | daqHdr (lead : BitVec 4) (bx : BitVec 12) (event : BitVec 6) (orbit : BitVec 3) (f6 f5 f4 : Bool)
      (evt : BitVec 4)
  /-- `DAQ.CM` (R64, R139). -/
  | daqCm (ignored : BitVec 12) (cm0 cm1 : BitVec 10)
  /-- `DAQ.CRC` (R65, R143). -/
  | daqCrc (crc : Word)
  /-- `TRIG.SOFT` (R67, R160). -/
  | trigSoft (soft : Word)
  /-- `TRIG.DATA` (R66, R162); `iBx` is the data word's index 0..3. -/
  | trigData (iBx : Nat) (sync : BitVec 4) (s0 s1 s2 s3 : BitVec 7)
  /-- `ROC.LEN` (R68, R241). -/
  | rocLen (total : Word)
  /-- `ROC.LTAB` (R68, R242); `k` is the table word's index 0..2. -/
  | rocLtab (k : Nat) (hi lo : BitVec 16)
  /-- `ECOND.HDR0` (R70, R210). -/
  | econdHdr0 (marker length : BitVec 9) (passthrough expected : Bool) (ht ebo : BitVec 2) (m truncated : Bool)
      (hamming : BitVec 6)
  /-- `ECOND.HDR1` (R71, R211). -/
  | econdHdr1 (bx : BitVec 12) (l1a : BitVec 6) (orbit : BitVec 3) (subErr : Bool) (rr : BitVec 2)
      (crc : BitVec 8)
  /-- `ECOND.TRL` (R72, R223). -/
  | econdTrl (crc : Word)
  /-- `ERX.HDR0` (R73, R176). -/
  | erxHdr0 (stat ham : BitVec 3) (isEmpty : Bool) (cm0 cm1 : BitVec 10) (chmapHi : BitVec 5)
  /-- `ERX.HDR1` (R74, R178). -/
  | erxHdr1 (chmapLo : Word)
  /-- `ZS0000` (R76, R182) of slot `slot`. -/
  | zs0000 (slot : Nat) (a m : BitVec 10)
  /-- `ZS0001` (R77, R183). -/
  | zs0001 (slot : Nat) (padBits : BitVec 2) (m : BitVec 10)
  /-- `ZS0010` (R78, R184). -/
  | zs0010 (slot : Nat) (a m : BitVec 10)
  /-- `ZS0011` (R79, R185). -/
  | zs0011 (slot : Nat) (m t : BitVec 10)
  /-- `FP01` (R80, R186). -/
  | fp01 (slot : Nat) (a m t : BitVec 10)
  /-- `FP10` (R81, R187). -/
  | fp10 (slot : Nat) (a m t : BitVec 10)
  /-- `FP11` (R82, R188). -/
  | fp11 (slot : Nat) (a m t : BitVec 10)
  /-- `PT.SAMPLE` (R83, R180) of slot `slot`. -/
  | ptSample (slot : Nat) (word : Word)
  /-- `MS.HDR` (R84, R230). -/
  | msHdr (flag : BitVec 4) (iSample : BitVec 11) (soi : Bool) (length : BitVec 16)
  /-- `MARK.ROC_START0` (R85, R282). -/
  | markRocStart0
  /-- `MARK.ROC_START1` (R85, R282). -/
  | markRocStart1
  /-- `MARK.ROC_END0` (R85, R285). -/
  | markRocEnd0
  /-- `MARK.ROC_END1` (R85, R285). -/
  | markRocEnd1
  /-- `MARK.MS_START` (R85, R286). -/
  | markMsStart
  /-- `MARK.MS_END` (R85, R285). -/
  | markMsEnd
  /-- `MS.PREFIX` (R287). -/
  | msPrefix (n : Word)
  /-- `PAD` (R89). -/
  | pad
  /-- `CRC32 a..b` (R89). -/
  | crc32 (a b : Nat)
  /-- `CRC8` (R89). -/
  | crc8
  /-- `RAW xxxxxxxx` (R89). -/
  | raw (word : Word)
  /-- `NOP` (R320). -/
  | nop
  /-- `CLR_FAULT` (R321). -/
  | clrFault
  /-- `CLR_LOG` (R322). -/
  | clrLog
  /-- `RD_BITS` (R102). -/
  | rdBits
  /-- `PEEK_BITS` (R103). -/
  | peekBits
  /-- `SEEK_WORD` (R105). -/
  | seekWord
  /-- `SEEK_BYTE` (R106). -/
  | seekByte
  /-- `ALIGN_WORD` (R107). -/
  | alignWord
  /-- `AT_END` (R108). -/
  | atEnd
  /-- `SET_SPAN` (R109). -/
  | setSpan
  /-- `SAMPLE_DEC` (R121). -/
  | sampleDec
  /-- `SAMPLE_ENC` (R126). -/
  | sampleEnc
  /-- `CRC32_SPAN` (R142). -/
  | crc32Span
  /-- `CRC8_U64` (R218). -/
  | crc8U64
  /-- `DAQ_FROM` (R135). -/
  | daqFrom
  /-- `TRIG_FROM` (R160). -/
  | trigFrom
  /-- `TRIG_CSUM` (R164). -/
  | trigCsum
  /-- `TRIG_LSUM` (R167). -/
  | trigLsum
  /-- `ERX_UNPACK` (R175). -/
  | erxUnpack
  /-- `ECOND_FROM` (R212). -/
  | econdFrom
  /-- `MS_FROM` (R231). -/
  | msFrom
  /-- `ROC_FROM` (R240). -/
  | rocFrom
  /-- `FMT_START` (R257). -/
  | fmtStart
  /-- `FMT_ADD` (R258). -/
  | fmtAdd
  /-- `FMT_FINISH` (R264). -/
  | fmtFinish
  /-- `SCAN_ROC` (R281). -/
  | scanRoc
  /-- `SCAN_MS` (R286). -/
  | scanMs
  deriving DecidableEq, Repr

/-- Which of the two scans a stream word is met by (R282, R286). -/
inductive ScanKind where
  | roc
  | ms
  deriving DecidableEq, Repr, Inhabited

/-- The place of a wire element: where in which frame the parser stands (R47), which alone tells the formats
without fixed bits apart; and the four pseudo-elements of the frame notation (R89), which have no bits. -/
inductive Place where
  | sample
  | daqHdr
  | daqCm
  | daqCrc
  | trigSoft
  | trigData (iBx : Nat)
  | rocLen
  | rocLtab (k : Nat)
  | econdHdr0
  | econdHdr1
  | econdTrl
  | erxHdr0
  | erxHdr1
  /-- The channel record of slot `slot` (R75). -/
  | channel (slot : Nat)
  | ptSample (slot : Nat)
  | msHdr
  /-- The next stream word, met by a scan for markers. -/
  | scan (kind : ScanKind)
  | msPrefix
  | pad
  | crc32 (a b : Nat)
  | crc8
  | raw (word : Word)
  deriving DecidableEq, Repr, Inhabited

/-- The seven classes of channel records (R75, R181). -/
inductive RecClass where
  | zs0000
  | zs0001
  | zs0010
  | zs0011
  | fp01
  | fp10
  | fp11
  deriving DecidableEq, Repr, Inhabited

/-- An instruction as it is coded: a number written to `CMD` (R90), or 32 bits at a place, left-aligned (the
first bit on the wire is bit 31; a channel record of 16 or 24 bits has zeros after it). -/
inductive Coded where
  | cmd (c : BitVec 6)
  | wire (pl : Place) (w : Word)
  deriving DecidableEq, Repr, Inhabited

/-- What the decoder answers: an instruction, or a rejection by name. -/
inductive Decoded where
  | instr (i : Instr)
  /-- A command number outside the table (R90, R323): rejected, and the machine sets `LOG.bad_cmd`. -/
  | unassignedCommand (c : BitVec 6)
  /-- A stream word met by a scan that is no marker of that scan (R282): rejected, and the scan drops it. -/
  | notAMarker (kind : ScanKind) (w : Word)
  /-- A position no frame has (R47): data word 4, table word 3, slot 37 or above. -/
  | noSuchPlace (pl : Place)
  deriving DecidableEq, Repr

end Sys2Proof
end

