-- ==== Sys2Proof/Machine/State.lean ====
section
/-! DEFINITION. The machine's state (R10), plain data; the reasons a step can stop; and the state after reset
(R30). -/

namespace Sys2Proof.Machine

/-- A buffer's content: (address, byte) pairs, addresses strictly rising, byte `k` of word `i` at address
`4 * i + k` (R42). An unlisted address reads as 0 (log 5), and no listed byte is 0. -/
abbrev Memory := List Host.Cell

/-- A buffer written bit by bit: its content and its write cursor. -/
structure BitBuf where
  mem : Memory
  op : Nat
  deriving DecidableEq, Repr, Inhabited

/-- What the host does next (R11, R26, R28, R330); one step takes one of these (log 2). -/
inductive HostAction where
  /-- Write `IBUF[i]` (R11). -/
  | writeIbuf (i : Nat) (w : Word)
  /-- Write `ILEN` (R11). -/
  | writeIlen (n : Nat)
  /-- Write `ARG0` (R26). -/
  | writeArg0 (v : Word)
  /-- Write `ARG1` (R26). -/
  | writeArg1 (v : Word)
  /-- Write `ARG2` (R26). -/
  | writeArg2 (v : Word)
  /-- Write `ARG3` (R26). -/
  | writeArg3 (v : Word)
  /-- Write `CFG_NLINKS` (R28). -/
  | writeNlinks (v : BitVec 4)
  /-- Write `CFG_ZS_EN` (R28). -/
  | writeZsEn (b : Bool)
  /-- Write `CMD`, which starts an operation (R26). -/
  | writeCmd (c : BitVec 6)
  /-- Have the one element that stands at the place parsed, or a pseudo-element of the notation expanded (log 3,
  log 17). -/
  | walk (pl : Place)
  /-- Begin a new frame in the notation of R89 (log 17). -/
  | frameNew
  /-- Write the `n` bits of value `v` of one element's line to the frame (R89, log 17). -/
  | frameBits (n v : Nat)
  /-- Write the frame's words to `IBUF` from word 0 on, and their number to `ILEN` (R11, R89, log 17). -/
  | frameLoad
  /-- Pulse the reset input (R330). -/
  | reset
  deriving DecidableEq, Repr, Inhabited

/-- The state of one instance (R10). The last five fields are the model's own (log 1, log 2, log 9, log 17). -/
structure State where
  /-- `IBUF` (R11). -/
  ibuf : Memory
  /-- `ILEN` (R11). -/
  ilen : Nat
  /-- `SPAN_BASE` (R12). -/
  spanBase : Nat
  /-- `SPAN_LEN` (R12). -/
  spanLen : Nat
  /-- `P`, the bit cursor (R12). -/
  p : Nat
  /-- `SAMP` (R14). -/
  samp : Samp
  /-- `DAQ` (R16). -/
  daq : Link
  /-- `TRIG` (R17). -/
  trig : Trigf
  /-- `ROC` (R18). -/
  roc : Roc
  /-- `ERX` (R16). -/
  erx : Link
  /-- `ERX.consumed` (R16). -/
  erxConsumed : Nat
  /-- `ECOND` (R19). -/
  econd : Econd
  /-- `MS` (R20). -/
  ms : Ms
  /-- `RES` (R21). -/
  res : Word
  /-- `CRCR.crc32` (R21). -/
  crc32 : Word
  /-- `CRCR.crc8` (R21). -/
  crc8 : BitVec 8
  /-- `OBUF` (R24). -/
  obuf : Memory
  /-- `OLEN` (R24). -/
  olen : Nat
  /-- `OP`, the bit write cursor (R24). -/
  op : Nat
  /-- `FMT_OPEN` (R24). -/
  fmtOpen : Bool
  /-- `FMT_NLINKS` (R24). -/
  fmtNlinks : Nat
  /-- `LOG` (R25). -/
  log : Log
  /-- `CMD` (R26). -/
  cmd : BitVec 6
  /-- `ARG0` (R26). -/
  arg0 : Word
  /-- `ARG1` (R26). -/
  arg1 : Word
  /-- `ARG2` (R26). -/
  arg2 : Word
  /-- `ARG3` (R26). -/
  arg3 : Word
  /-- `FAULT` (R27). -/
  fault : Option FaultKind
  /-- `FAULT_INFO` (R27). -/
  faultInfo : Word
  /-- `FAULT_OP` (R27). -/
  faultOp : BitVec 6
  /-- `CFG_NLINKS` (R28). -/
  cfgNlinks : BitVec 4
  /-- `CFG_ZS_EN` (R28). -/
  cfgZsEn : Bool
  /-- `STRM_POS` (R29). -/
  strmPos : Nat
  /-- `STRM_EOF` (R29). -/
  strmEof : Bool
  /-- The parameters of R4; no step writes them. -/
  params : Params
  /-- The content of the stream (R280); no step writes it. -/
  strm : Stream
  /-- The host's accesses still to come. -/
  script : List HostAction
  /-- The frame the host is writing in the notation of R89, outside the block. -/
  frame : BitBuf
  /-- How many free values have been drawn. -/
  draws : Nat
  deriving DecidableEq, Repr

/-- Why the machine stops. -/
inductive Fault where
  /-- A host write of `IBUF[i]` with `i >= IBUF_WORDS`: there is no such word (R11, R40). Raised by the host-write
  step; safe. -/
  | noSuchWord
  /-- A scan over an infinite stream with no start marker from its position on: such a run is not a transition
  (R280, U11). Raised by the two scans, and by nothing else; safe. -/
  | endlessScan
  deriving DecidableEq, Repr

/-- Why the model refuses. -/
inductive Refusal where
  /-- The instruction has no meaning yet. Raised by `exec`; safe. -/
  | notModelled (mnemonic : String)
  /-- A host write of `ILEN` above `IBUF_WORDS`, outside the range R11 gives it. Raised by the host-write steps;
  safe. -/
  | ilenOutOfRange
  /-- A walk at a position no frame has (R47). Raised by the walk step; safe. -/
  | noSuchPlace
  deriving DecidableEq, Repr

/-- The table of R30, for given parameters and stream; the script, the host's frame and the count of draws are the
model's own. -/
def State.resetWith (params : Params) (strm : Stream) (script : List HostAction) (frame : BitBuf) (draws : Nat) :
    State where
  ibuf := []
  ilen := 0
  spanBase := 0
  spanLen := 0
  p := 0
  samp := ⟨false, false, 0, 0, 0, 0, 0#32⟩
  daq := Link.zero
  trig := Trigf.zero
  roc := Roc.zero
  erx := Link.zero
  erxConsumed := 0
  econd := Econd.zero params.nLinks
  ms := Ms.zero
  res := 0#32
  crc32 := 0#32
  crc8 := 0#8
  obuf := []
  olen := 0
  op := 0
  fmtOpen := false
  fmtNlinks := 0
  log := Log.zero
  cmd := 0#6
  arg0 := 0#32
  arg1 := 0#32
  arg2 := 0#32
  arg3 := 0#32
  fault := none
  faultInfo := 0#32
  faultOp := 0#6
  cfgNlinks := BitVec.ofNat 4 params.nLinks
  cfgZsEn := true
  strmPos := 0
  strmEof := false
  params := params
  strm := strm
  script := script
  frame := frame
  draws := draws

/-- The machine right after reset (R30), with the default parameters (R4), an empty stream and a host that has
nothing to do yet. -/
def State.reset : State :=
  State.resetWith Params.default ⟨[], []⟩ [] ⟨[], 0⟩ 0

end Sys2Proof.Machine
end

