-- ==== Sys2Proof/Machine/Ops.lean ====
section
/-! DEFINITION. The named operations every meaning is built from: buffers (R40 to R42), the span and its bit string
(R100, R101, R104), raising a structural error and clearing it (R303, R304, R321), and the wrappers that say when an
operation or an element may run at all. -/

namespace Sys2Proof.Machine

/-- What a step or a meaning answers. -/
abbrev Result := Host.Outcome State Fault Refusal

/-! ### Buffers -/

/-- What an address that no cell lists reads as (log 5). -/
def Memory.unlisted : Byte := 0#8

/-- Read one byte. -/
def Memory.readByte : Memory → Nat → Byte
  | [], _ => Memory.unlisted
  | (b, v) :: t, a => if a = b then v else Memory.readByte t a

/-- Write one byte, keeping the canonical form. -/
def Memory.writeByte : Memory → Nat → Byte → Memory
  | [], a, v => if v = Memory.unlisted then [] else [(a, v)]
  | (b, u) :: t, a, v =>
    if a < b then if v = Memory.unlisted then (b, u) :: t else (a, v) :: (b, u) :: t
    else if a = b then if v = Memory.unlisted then t else (a, v) :: t
    else (b, u) :: Memory.writeByte t a v

/-- The canonical form: addresses strictly rising, no cell equal to what an unlisted address reads as. -/
def Memory.wf : Memory → Bool
  | [] => true
  | (a, v) :: t => decide (v ≠ Memory.unlisted) && t.all (fun c => decide (a < c.1)) && Memory.wf t

/-- Word `i` of a buffer: its bytes `4 i .. 4 i + 3`, the most significant first (R42). -/
def Memory.readWord (m : Memory) (i : Nat) : Word :=
  Memory.readByte m (4 * i) ++ Memory.readByte m (4 * i + 1) ++ Memory.readByte m (4 * i + 2)
    ++ Memory.readByte m (4 * i + 3)

/-- Write word `i` of a buffer (R42). -/
def Memory.writeWord (m : Memory) (i : Nat) (w : Word) : Memory :=
  Memory.writeByte
    (Memory.writeByte
      (Memory.writeByte (Memory.writeByte m (4 * i) (w.extractLsb' 24 8)) (4 * i + 1) (w.extractLsb' 16 8))
      (4 * i + 2) (w.extractLsb' 8 8))
    (4 * i + 3) (w.extractLsb' 0 8)

/-- Write words from index `i` on. -/
def Memory.writeWords (m : Memory) (i : Nat) : List Word → Memory
  | [] => m
  | w :: ws => Memory.writeWords (Memory.writeWord m i w) (i + 1) ws

/-- Words `i .. i + n - 1` of a buffer. -/
def Memory.words (m : Memory) (i n : Nat) : List Word :=
  (List.range n).map fun k => Memory.readWord m (i + k)

/-- The canonical memory that a list of byte writes below address `limit` leaves (a free buffer content). -/
def Memory.ofCells (limit : Nat) : List Host.Cell → Memory
  | [] => []
  | (a, v) :: t =>
    if a < limit then Memory.writeByte (Memory.ofCells limit t) a v else Memory.ofCells limit t

/-! ### The span and its bit string -/

/-- The words `W[0] .. W[LEN-1]` of the current span (R12). -/
def spanWords (s : State) : List Word :=
  Memory.words s.ibuf s.spanBase s.spanLen

/-- `bit(q)` of a span (R100). -/
def bitAt (ws : List Word) (q : Nat) : Bool :=
  (ws.getD (q / 32) 0#32).getLsbD (31 - q % 32)

/-- The value `BitRead(p, n)` gives when it does not raise (R101): the first bit is the most significant. -/
def bitRead (ws : List Word) (p : Nat) : (n : Nat) → BitVec n
  | 0 => 0#0
  | n + 1 => (bitRead ws p n).concat (bitAt ws (p + n))

/-- The split formulation of a read of `n` bits, `1 <= n <= 32` (R104). -/
def splitRead (ws : List Word) (p n : Nat) : Nat :=
  let wp := p / 32
  let bl := 32 - p % 32
  if n ≤ bl then ((ws.getD wp 0#32).toNat >>> (bl - n)) % 2 ^ n
  else
    let runon := n - bl
    let high := (ws.getD wp 0#32).toNat % 2 ^ bl
    let low := (ws.getD (wp + 1) 0#32).toNat >>> (32 - runon)
    (high <<< runon) ||| low

/-- `ceil(q / 32)`. -/
def ceilWords (q : Nat) : Nat :=
  (q + 31) / 32

/-! ### What outlives a fault, and the result of a decode -/

/-- What a decode changes beside its record, and what stays when it raises (R303): the `LOG` bits, and the count of
free values drawn. -/
structure Acc where
  log : Log
  draws : Nat
  deriving DecidableEq, Repr

/-- A structural error with the number that locates it (R303). -/
structure Raise where
  kind : FaultKind
  info : Nat
  deriving DecidableEq, Repr

/-- A decode runs to completion or raises (R50). -/
inductive Run (α : Type) where
  | done (a : α) (c : Acc)
  | stop (e : Raise) (c : Acc)
  deriving DecidableEq, Repr

/-- The part of the state a decode may change beside its record. -/
def State.acc (s : State) : Acc := ⟨s.log, s.draws⟩

/-- The state with that part replaced. -/
def State.withAcc (s : State) (c : Acc) : State := { s with log := c.log, draws := c.draws }

/-! ### Raising a structural error, and the return from it -/

/-- What an operation's fault leaves unspecified (R303): its destination and, but for the cursor operations, `P`. -/
inductive Dest where
  /-- `SEEK_WORD`, `SEEK_BYTE`, `SET_SPAN`: nothing; `P` and the span stay. -/
  | nothing
  /-- `RD_BITS`, `PEEK_BITS`: `RES`; `P` and the span stay. -/
  | resOnly
  /-- `TRIG_CSUM`, `TRIG_LSUM`: `RES` and `P`. -/
  | res
  /-- `CRC32_SPAN`: `CRCR.crc32` and `P`. -/
  | crcr
  /-- `DAQ` and `P`. -/
  | daq
  /-- `TRIG` and `P`. -/
  | trig
  /-- `ROC` and `P`. -/
  | roc
  /-- `ERX` and `P`. -/
  | erx
  /-- `ECOND` and `P`. -/
  | econd
  /-- `MS` and `P`. -/
  | ms
  /-- The formatter: `OBUF`, `OLEN`, `OP`, `P`; `FMT_OPEN` becomes 0. -/
  | fmt
  /-- The stream operations: `IBUF` and `RES`; `ILEN`, the span and `P` become 0. -/
  | strm
  deriving DecidableEq, Repr

/-- A free cursor: any position of the span (R12 bounds `P`; log 8). -/
def freeCursor (s : State) : Nat :=
  Config.freeNat s.draws % (32 * s.spanLen + 1)

/-- A free write cursor: any position of `OBUF` (R24 bounds `OP`; log 8). -/
def freeWriteCursor (s : State) : Nat :=
  Config.freeNat (s.draws + 1) % (32 * s.params.obufWords + 1)

/-- A free `MS` record of at most `MAX_SAMPLES` samples (R20). -/
def freeMsRecord (s : State) : Ms :=
  { Config.freeMs s.draws with samples := (Config.freeMs s.draws).samples.take s.params.maxSamples }

/-- The state with what a fault of that destination leaves unspecified replaced by free values (R303). -/
def spoil (dst : Dest) (s : State) : State :=
  match dst with
  | .nothing => s
  | .resOnly => { s with res := Config.freeWord s.draws, draws := s.draws + 2 }
  | .res => { s with res := Config.freeWord s.draws, p := freeCursor s, draws := s.draws + 2 }
  | .crcr => { s with crc32 := Config.freeWord s.draws, p := freeCursor s, draws := s.draws + 2 }
  | .daq => { s with daq := Config.freeLink s.draws, p := freeCursor s, draws := s.draws + 2 }
  | .trig => { s with trig := Config.freeTrigf s.draws, p := freeCursor s, draws := s.draws + 2 }
  | .roc => { s with roc := Config.freeRoc s.draws, p := freeCursor s, draws := s.draws + 2 }
  | .erx =>
    { s with
      erx := Config.freeLink s.draws, erxConsumed := Config.freeNat (s.draws + 1), p := freeCursor s,
      draws := s.draws + 2 }
  | .econd => { s with econd := Config.freeEcond s.draws, p := freeCursor s, draws := s.draws + 2 }
  | .ms => { s with ms := freeMsRecord s, p := freeCursor s, draws := s.draws + 2 }
  | .fmt =>
    { s with
      obuf := Memory.ofCells (4 * s.params.obufWords) (Config.freeCells s.draws), op := freeWriteCursor s,
      olen := ceilWords (freeWriteCursor s), fmtOpen := false, p := freeCursor s, draws := s.draws + 2 }
  | .strm =>
    { s with
      ibuf := Memory.ofCells (4 * s.params.ibufWords) (Config.freeCells s.draws), res := Config.freeWord s.draws,
      ilen := 0, spanBase := 0, spanLen := 0, p := 0, draws := s.draws + 2 }

/-- `FAULT`, `FAULT_INFO`, `FAULT_OP` of a structural error raised in operation `op` (R303, R27). -/
def raiseFault (op : BitVec 6) (e : Raise) (s : State) : State :=
  { s with fault := some e.kind, faultInfo := BitVec.ofNat 32 e.info, faultOp := op }

/-- Taking a structural error: the operation stops, its destination is unspecified, the fault registers are written;
control goes nowhere (R303). -/
def abort (dst : Dest) (op : BitVec 6) (e : Raise) (s : State) : State :=
  raiseFault op e (spoil dst s)

/-- The return from a structural error (R321): nothing was saved, nothing is restored. -/
def clearFault (s : State) : State :=
  { s with fault := none, faultInfo := 0#32, faultOp := 0#6 }

/-! ### When an operation runs -/

/-- While a fault is pending an operation starts nothing and changes nothing (R304). -/
def whenIdle (s : State) (k : Result) : Result :=
  if s.fault.isSome then .next s else k

/-- An operation that takes the current span as its input, run on the span's words; a span that reaches beyond
`ILEN` raises `LengthError(SPAN_BASE + SPAN_LEN)` first (R336, log 10). -/
def onSpan (dst : Dest) (op : BitVec 6) (s : State) (k : List Word → Result) : Result :=
  whenIdle s
    (if s.ilen < s.spanBase + s.spanLen then
      .next (abort dst op ⟨.lengthError, s.spanBase + s.spanLen⟩ s)
    else k (spanWords s))

/-- The outcome of an operation whose decode has run: its result stored, or the structural error taken. -/
def finish {α : Type} (dst : Dest) (op : BitVec 6) (s : State) (r : Run α) (put : α → State → State) : Result :=
  match r with
  | .done a c => .next (put a (s.withAcc c))
  | .stop e c => .next (abort dst op e (s.withAcc c))

/-- One element of `n` bits at the cursor (log 3): the first `look` bits are looked at, then `code` bits and the rest
are read, as `peek_bits` and `read_bits` do (R102, R103, R191); the cursor moves past it. -/
def onElement (dst : Dest) (op : BitVec 6) (look code n : Nat) (s : State) (k : List Word → State → Result) : Result :=
  onSpan dst op s fun ws =>
    if 32 * s.spanLen < s.p + look then .next (abort dst op ⟨.lengthError, s.p⟩ s)
    else if 32 * s.spanLen < s.p + n then .next (abort dst op ⟨.lengthError, s.p + code⟩ s)
    else k ws { s with p := s.p + n }

/-- One whole word at the cursor. -/
def onWord (dst : Dest) (op : BitVec 6) (s : State) (k : List Word → State → Result) : Result :=
  onElement dst op 32 0 32 s k

/-! ### The stream port (R46, R280) -/

/-- The next word of the stream, not yet consumed. -/
def strmNext (s : State) : Option Word :=
  s.strm.word s.strmPos

/-- `n` words of the stream consumed (R46). -/
def consumeWords (n : Nat) (s : State) : State := { s with strmPos := s.strmPos + n }

/-- A read at the end of a finite stream: every word consumed, the end latched in `STRM_EOF` (R280). -/
def meetStreamEnd (s : State) : State :=
  { s with strmPos := s.strmPos + (s.strm.words.length - s.strmPos), strmEof := true }

end Sys2Proof.Machine
end

