-- ==== Sys2Proof/Machine/Operands.lean ====
section
/-! DEFINITION. The operand forms: how an operation reads `ARG0..3` (R26 and each operation's rule), and how the
words of a link record and of a sample are laid out (R62, R138). -/

namespace Sys2Proof.Machine

/-! ### Arguments -/

/-- `ARG0` as a natural number: `n`, `k`, `base`, `i_sum`, `ilink`. -/
def arg0Nat (s : State) : Nat := s.arg0.toNat

/-- `ARG1` as a natural number: `len`, `i_bx`. -/
def arg1Nat (s : State) : Nat := s.arg1.toNat

/-- `ARG0[0]`: the passthrough operand (R175). -/
def argPassthrough (s : State) : Bool := s.arg0.getLsbD 0

/-- An argument of `SAMPLE_ENC`: a signed 11-bit integer (R126). -/
def argSigned (v : Word) : BitVec 11 := v.extractLsb' 0 11

/-- `z(x)`: a negative argument is absent and gives zero (R126). -/
def clampNeg (x : BitVec 11) : BitVec 10 :=
  if x.msb then 0#10 else x.setWidth 10

/-! ### Sample words -/

/-- `word(Tc, Tp, A, M, T)` (R62, section 2 of 44_erx_subpacket.md). -/
def sampleWord (tc tp : Bool) (a m t : BitVec 10) : Word :=
  BitVec.ofBool tc ++ BitVec.ofBool tp ++ a ++ m ++ t

/-- Slot A of a sample word. -/
def slotA (w : Word) : BitVec 10 := w.extractLsb' 20 10
/-- Slot M of a sample word. -/
def slotM (w : Word) : BitVec 10 := w.extractLsb' 10 10
/-- Slot T of a sample word. -/
def slotT (w : Word) : BitVec 10 := w.extractLsb' 0 10

/-! ### Slots of a link record (R138) -/

/-- `store_slot(D, s, w)` (R138); there is no slot above 36. -/
def storeSlot (d : Link) (slot : Nat) (w : Word) : Link :=
  if slot < 18 then { d with ch := d.ch.setIfInBounds slot w }
  else if slot = 18 then { d with calib := w }
  else { d with ch := d.ch.setIfInBounds (slot - 1) w }

/-- `load_slot(D, s)` (R138). -/
def loadSlot (d : Link) (slot : Nat) : Word :=
  if slot < 18 then d.ch[slot]?.getD 0#32
  else if slot = 18 then d.calib
  else d.ch[slot - 1]?.getD 0#32

/-- Slots `0 .. n - 1` stored from the words `f 0 .. f (n - 1)`. -/
def storeSlots (f : Nat → Word) : Nat → Link → Link
  | 0, d => d
  | n + 1, d => storeSlot (storeSlots f n d) n (f n)

/-- `D.code[s] <- c` (R175). -/
def storeCode (d : Link) (slot : Nat) (c : BitVec 4) : Link :=
  { d with code := d.code.setIfInBounds slot c }

/-- `present(chmap, s)` (R179). -/
def present (o : ChmapOrder) (chmap : BitVec 37) (slot : Nat) : Bool :=
  match o with
  | .bitCIsSlotC => chmap.getLsbD slot
  | .bit36MinusC => chmap.getLsbD (36 - slot)

/-- Word `i` of a span's words; only asked for when `i < LEN` (R7). -/
def wordAt (ws : List Word) (i : Nat) : Word :=
  ws.getD i 0#32

end Sys2Proof.Machine
end

