-- ==== Sys2Proof/Machine/Cursor.lean ====
section
/-! DEFINITION. The bit-field cursor operations (40_bitcursor.md). -/

namespace Sys2Proof.Machine

/-- The body `RD_BITS` and `PEEK_BITS` share (R102, R103): `ARG0` bits at the cursor. -/
def readArgBits (op : BitVec 6) (s : State) (put : Word → State) : Result :=
  onSpan .resOnly op s fun ws =>
    if 32 < arg0Nat s then .next (abort .resOnly op ⟨.badFormat, arg0Nat s⟩ s)
    else if 32 * s.spanLen < s.p + arg0Nat s then .next (abort .resOnly op ⟨.lengthError, s.p⟩ s)
    else .next (put ((bitRead ws s.p (arg0Nat s)).setWidth 32))

/-- `RD_BITS n` (R102). -/
def execRdBits (s : State) : Result :=
  readArgBits 0x04#6 s fun v => { s with res := v, p := s.p + arg0Nat s }

/-- `PEEK_BITS n` (R103). -/
def execPeekBits (s : State) : Result :=
  readArgBits 0x05#6 s fun v => { s with res := v }

/-- `SEEK_WORD k` (R105). -/
def execSeekWord (s : State) : Result :=
  whenIdle s
    (if s.spanLen < arg0Nat s then .next (abort .nothing 0x06#6 ⟨.lengthError, arg0Nat s⟩ s)
    else .next { s with p := 32 * arg0Nat s })

/-- `SEEK_BYTE k` (R106). -/
def execSeekByte (s : State) : Result :=
  whenIdle s
    (if 4 * s.spanLen < arg0Nat s then .next (abort .nothing 0x07#6 ⟨.lengthError, arg0Nat s⟩ s)
    else .next { s with p := 8 * arg0Nat s })

/-- `ALIGN_WORD` (R107). -/
def execAlignWord (s : State) : Result :=
  whenIdle s (.next { s with p := 32 * ceilWords s.p })

/-- `AT_END` (R108). -/
def execAtEnd (s : State) : Result :=
  whenIdle s (.next { s with res := if s.p = 32 * s.spanLen then 1#32 else 0#32 })

/-- `SET_SPAN base, len` (R109). -/
def execSetSpan (s : State) : Result :=
  whenIdle s
    (if s.ilen < arg0Nat s + arg1Nat s then
      .next (abort .nothing 0x0A#6 ⟨.lengthError, arg0Nat s + arg1Nat s⟩ s)
    else .next { s with spanBase := arg0Nat s, spanLen := arg1Nat s, p := 0 })

end Sys2Proof.Machine
end

