-- ==== Sys2Proof/Machine/Crc.lean ====
section
/-! DEFINITION. The two cyclic redundancy checks: CRC-32 (R140, R141) and the header CRC-8 (R216, R217). -/

namespace Sys2Proof.Machine

/-- Bits `k - 1 .. 0` of a value into a register of a non-reflected CRC, the most significant first (the loops of
R141 and R216). -/
def crcBits {n w : Nat} (poly : BitVec n) (v : BitVec w) : Nat → BitVec n → BitVec n
  | 0, crc => crc
  | k + 1, crc =>
    if crc.msb ^^ v.getLsbD k then crcBits poly v k ((crc <<< 1) ^^^ poly) else crcBits poly v k (crc <<< 1)

/-- `CRC32_POLY` (R140). -/
def crc32Poly : BitVec 32 := 0x04C11DB7#32

/-- One word into the CRC-32 register, most significant bit first (R141). -/
def crc32Word (crc : BitVec 32) (w : Word) : BitVec 32 :=
  crcBits crc32Poly w 32 crc

/-- `CRC32(words)` (R141). -/
def crc32Of (ws : List Word) : BitVec 32 :=
  ws.foldl crc32Word 0#32

/-- `CRC8(v)` (R216). -/
def crc8Of (poly : BitVec 8) (v : BitVec 64) : BitVec 8 :=
  crcBits poly v 64 0#8

/-- `base(w0, w1)` (R217). -/
def crc8Base (form : Crc8Base) (w0 w1 : Word) : BitVec 64 :=
  match form with
  | .baseB => ((w0 &&& 0xFFFFFFC0#32).setWidth 64 <<< 24) ||| (w1 >>> 8).setWidth 64
  | .baseA => ((w0 >>> 8).setWidth 64 <<< 32) ||| (w1 >>> 8).setWidth 64

/-- `CRC8(base(w0, w1))` under the parameters. -/
def headerCrc8 (pr : Params) (w0 w1 : Word) : BitVec 8 :=
  crc8Of pr.crc8Poly (crc8Base pr.crc8Base w0 w1)

end Sys2Proof.Machine
end

