-- ==== Sys2Proof/Machine/Flags.lean ====
section
/-! DEFINITION. Every flag of R25: what sets each, and the sticky `LOG` bits. -/

namespace Sys2Proof.Machine

/-! ### Sticky `LOG` bits: set by the event, never cleared by one -/

/-- `log warn invalid_code` (R187, R192). -/
def Log.setInvalidCode (l : Log) (b : Bool) : Log := { l with invalidCode := l.invalidCode || b }
/-- `log warn sync_warn` (R160). -/
def Log.setSyncWarn (l : Log) (b : Bool) : Log := { l with syncWarn := l.syncWarn || b }
/-- `log warn hdr_warn` (R135, R212). -/
def Log.setHdrWarn (l : Log) (b : Bool) : Log := { l with hdrWarn := l.hdrWarn || b }
/-- `log warn bad_cmd` (R323). -/
def Log.setBadCmd (l : Log) : Log := { l with badCmd := true }

/-! ### DAQ link flags -/

/-- `corruption[0]`: the leading nibble is not `0b1111` (R137). -/
def leadBad (lead : BitVec 4) : Bool := decide (lead ≠ 0b1111#4)

/-- `corruption[5]`: the event type is neither `0b0010` nor `0b0101` (R137). -/
def eventTypeBad (evt : BitVec 4) : Bool := decide (evt ≠ 0b0010#4) && decide (evt ≠ 0b0101#4)

/-- `corruption[0..5]` after the header word, `corruption[1]` kept (R135, R63). -/
def headerFlags (o : DaqFlagOrder) (lead : BitVec 4) (f6 f5 f4 : Bool) (evt : BitVec 4) (crcFlag : Bool) :
    Vector Bool 6 :=
  match o with
  | .to234 => #v[leadBad lead, crcFlag, f6, f5, f4, eventTypeBad evt]
  | .to432 => #v[leadBad lead, crcFlag, f4, f5, f6, eventTypeBad evt]

/-- The DAQ CRC flag `corruption[1]`: CRC-32 of words 0..38 against word 39 (R143). -/
def daqCrcFlag (ws : List Word) (crc : Word) : Bool := decide (crc32Of (ws.take 39) ≠ crc)

/-- The warning of `DAQ_FROM` (R135): `corruption[0]` or `[5]`; never `[1]` (R143). -/
def daqWarn (lead evt : BitVec 4) : Bool := leadBad lead || eventTypeBad evt

/-! ### Trigger link flags -/

/-- `sync_bad[b]` of a data word whose top nibble is `sync` (R162). -/
def syncBadOf (pr : Params) (sync : BitVec 4) : Bool := !pr.trigSyncSet.contains sync

/-! ### ECON-D flags -/

/-- `ECOND.corruption[2]`: the header CRC-8 (R212, R217). -/
def headerCrcFlag (pr : Params) (w0 w1 : Word) (crc : BitVec 8) : Bool := decide (headerCrc8 pr w0 w1 ≠ crc)

/-- `ECOND.corruption[3]`: the CRC-32 of the sub-packet words `W[2] .. W[off-1]` against the trailer (R223). -/
def trailerCrcFlag (ws : List Word) (off : Nat) (trailer : Word) : Bool :=
  decide (crc32Of ((ws.take off).drop 2) ≠ trailer)

end Sys2Proof.Machine
end

