-- ==== Sys2Proof/Machine/DaqLink.lean ====
section
/-! DEFINITION. The DAQ link frame parser and the CRC-32 operation (42_daqlink.md). -/

namespace Sys2Proof.Machine

/-- The header word into a `LINK` record (R135, R137). -/
def applyDaqHdr (pr : Params) (lead : BitVec 4) (bx : BitVec 12) (event : BitVec 6) (orbit : BitVec 3)
    (f6 f5 f4 : Bool) (evt : BitVec 4) (d : Link) : Link :=
  { d with
    corruption := headerFlags pr.daqFlagOrder lead f6 f5 f4 evt d.corruption[1], bx := bx, event := event,
    orbit := orbit, evtFlag := evt, firstEvent := decide (evt = 0b0010#4) }

/-- The common-mode word into a `LINK` record (R139). -/
def applyDaqCm (cm0 cm1 : BitVec 10) (d : Link) : Link :=
  { d with adcCm0 := cm0, adcCm1 := cm1 }

/-- The CRC word into a `LINK` record, with the check against the words before it (R135, R143). -/
def applyDaqCrc (ws : List Word) (crc : Word) (d : Link) : Link :=
  { d with crcWord := crc, corruption := d.corruption.set 1 (daqCrcFlag ws crc) }

/-- The record `DAQ_FROM` builds from a frame's 40 words (R135). -/
def daqRecord (pr : Params) (ws : List Word) : Link :=
  let h := wordAt ws 0
  let d1 :=
    applyDaqHdr pr (h.extractLsb' 28 4) (h.extractLsb' 16 12) (h.extractLsb' 10 6) (h.extractLsb' 7 3) (h.getLsbD 6)
      (h.getLsbD 5) (h.getLsbD 4) (h.extractLsb' 0 4) Link.zero
  let d2 := applyDaqCm ((wordAt ws 1).extractLsb' 10 10) ((wordAt ws 1).extractLsb' 0 10) d1
  let d3 := storeSlots (fun k => wordAt ws (2 + k)) 37 d2
  { applyDaqCrc ws (wordAt ws 39) d3 with nwords := 40 }

/-- `DAQ_FROM` on the words of a span (R135, R136). -/
def daqFrom (pr : Params) (ws : List Word) (c : Acc) : Run Link :=
  if ws.length ≠ 40 then .stop ⟨.badLength, ws.length⟩ c
  else
    let h := wordAt ws 0
    .done (daqRecord pr ws) { c with log := c.log.setHdrWarn (daqWarn (h.extractLsb' 28 4) (h.extractLsb' 0 4)) }

/-- `DAQ_FROM` (R135). -/
def execDaqFrom (s : State) : Result :=
  onSpan .daq 0x14#6 s fun ws =>
    finish .daq 0x14#6 s (daqFrom s.params ws s.acc) fun d s' => { s' with daq := d }

/-- `CRC32_SPAN` (R142). -/
def execCrc32Span (s : State) : Result :=
  onSpan .crcr 0x12#6 s fun ws => .next { s with crc32 := crc32Of ws }

/-- A `DAQ.HDR` word at the cursor (R137, log 3). -/
def execDaqHdr (lead : BitVec 4) (bx : BitVec 12) (event : BitVec 6) (orbit : BitVec 3) (f6 f5 f4 : Bool)
    (evt : BitVec 4) (s : State) : Result :=
  onWord .daq 0x14#6 s fun _ s' =>
    .next
      { s' with
        daq := applyDaqHdr s.params lead bx event orbit f6 f5 f4 evt s.daq,
        log := s.log.setHdrWarn (daqWarn lead evt) }

/-- A `DAQ.CM` word at the cursor (R139, log 3); its top 12 bits are ignored. -/
def execDaqCm (_ignored : BitVec 12) (cm0 cm1 : BitVec 10) (s : State) : Result :=
  onWord .daq 0x14#6 s fun _ s' => .next { s' with daq := applyDaqCm cm0 cm1 s.daq }

/-- A `DAQ.CRC` word at the cursor (R143, log 3): the check runs over the span's words 0..38, so the span is a whole
frame (R136). -/
def execDaqCrc (crc : Word) (s : State) : Result :=
  onWord .daq 0x14#6 s fun ws s' =>
    if ws.length ≠ 40 then .next (abort .daq 0x14#6 ⟨.badLength, ws.length⟩ s)
    else .next { s' with daq := applyDaqCrc ws crc s.daq }

end Sys2Proof.Machine
end

