-- ==== Sys2Proof/WellFormed.lean ====
section
/-! DEFINITION. The checks on an instruction's fields that their types do not make: the positions of R47. -/

namespace Sys2Proof

/-- A trigger link frame has data words 0..3, a length table words 0..2, a link slots 0..36 (R47). -/
def Instr.wellFormed : Instr → Bool
  | .trigData iBx _ _ _ _ _ => decide (iBx < 4)
  | .rocLtab k _ _ => decide (k < 3)
  | .zs0000 slot _ _ => decide (slot < 37)
  | .zs0001 slot _ _ => decide (slot < 37)
  | .zs0010 slot _ _ => decide (slot < 37)
  | .zs0011 slot _ _ => decide (slot < 37)
  | .fp01 slot _ _ _ => decide (slot < 37)
  | .fp10 slot _ _ _ => decide (slot < 37)
  | .fp11 slot _ _ _ => decide (slot < 37)
  | .ptSample slot _ => decide (slot < 37)
  | .sample .. | .daqHdr .. | .daqCm .. | .daqCrc .. | .trigSoft .. | .rocLen .. | .econdHdr0 .. | .econdHdr1 ..
  | .econdTrl .. | .erxHdr0 .. | .erxHdr1 .. | .msHdr .. | .markRocStart0 | .markRocStart1 | .markRocEnd0
  | .markRocEnd1 | .markMsStart | .markMsEnd | .msPrefix .. | .pad | .crc32 .. | .crc8 | .raw .. | .nop | .clrFault
  | .clrLog | .rdBits | .peekBits | .seekWord | .seekByte | .alignWord | .atEnd | .setSpan | .sampleDec | .sampleEnc
  | .crc32Span | .crc8U64 | .daqFrom | .trigFrom | .trigCsum | .trigLsum | .erxUnpack | .econdFrom | .msFrom
  | .rocFrom | .fmtStart | .fmtAdd | .fmtFinish | .scanRoc | .scanMs => true

end Sys2Proof
end

