-- ==== Sys2Proof/Decode.lean ====
section
/-! DEFINITION. The decoder of coded instructions and, after it, the encoder, both from the layouts of
30_encoding.md, and the context-free reading of a table word. -/

namespace Sys2Proof

/-! ### Command numbers (R90, 00_scope.md section 6) -/

/-- The command table of 00_scope.md section 6. -/
def commandTable : List (Nat × Instr) :=
  [(0x00, .nop), (0x01, .clrFault), (0x02, .clrLog), (0x04, .rdBits), (0x05, .peekBits), (0x06, .seekWord),
   (0x07, .seekByte), (0x08, .alignWord), (0x09, .atEnd), (0x0A, .setSpan), (0x10, .sampleDec),
   (0x11, .sampleEnc), (0x12, .crc32Span), (0x13, .crc8U64), (0x14, .daqFrom), (0x15, .trigFrom),
   (0x16, .trigCsum), (0x17, .trigLsum), (0x18, .erxUnpack), (0x19, .econdFrom), (0x1A, .msFrom),
   (0x1B, .rocFrom), (0x1C, .fmtStart), (0x1D, .fmtAdd), (0x1E, .fmtFinish), (0x20, .scanRoc),
   (0x21, .scanMs)]

/-- The operation a command number starts; a number outside the table is unassigned (R323). -/
def decodeCommand (c : BitVec 6) : Decoded :=
  match commandTable.lookup c.toNat with
  | some i => .instr i
  | none => .unassignedCommand c

/-! ### Channel-record classes (R75, R181) -/

/-- `classify(c)` (R181), on the 4 bits seen at the cursor. -/
def classify (c : BitVec 4) : RecClass :=
  match c.getLsbD 3, c.getLsbD 2 with
  | false, true => .fp01
  | true, false => .fp10
  | true, true => .fp11
  | false, false =>
    match c.getLsbD 1, c.getLsbD 0 with
    | false, false => .zs0000
    | false, true => .zs0001
    | true, false => .zs0010
    | true, true => .zs0011

/-- Bits of the code that starts a record (R75). -/
def RecClass.codeBits : RecClass → Nat
  | .zs0000 | .zs0001 | .zs0010 | .zs0011 => 4
  | .fp01 | .fp10 | .fp11 => 2

/-- Bits of a whole record (R75). -/
def RecClass.recordBits : RecClass → Nat
  | .zs0001 => 16
  | .zs0000 | .zs0010 | .zs0011 => 24
  | .fp01 | .fp10 | .fp11 => 32

/-- The record of slot `slot` that starts at bit 31 of `w` (R76 to R82). -/
def decodeRecord (slot : Nat) (w : Word) : Instr :=
  match classify (w.extractLsb' 28 4) with
  | .zs0000 => .zs0000 slot (w.extractLsb' 18 10) (w.extractLsb' 8 10)
  | .zs0001 => .zs0001 slot (w.extractLsb' 26 2) (w.extractLsb' 16 10)
  | .zs0010 => .zs0010 slot (w.extractLsb' 18 10) (w.extractLsb' 8 10)
  | .zs0011 => .zs0011 slot (w.extractLsb' 18 10) (w.extractLsb' 8 10)
  | .fp01 => .fp01 slot (w.extractLsb' 20 10) (w.extractLsb' 10 10) (w.extractLsb' 0 10)
  | .fp10 => .fp10 slot (w.extractLsb' 20 10) (w.extractLsb' 10 10) (w.extractLsb' 0 10)
  | .fp11 => .fp11 slot (w.extractLsb' 20 10) (w.extractLsb' 10 10) (w.extractLsb' 0 10)

/-! ### Markers (R85) -/

/-- First word of the single-ROC start pair. -/
def markRocStart0Word : Word := 0x11888811#32
/-- Second word of the single-ROC start pair. -/
def markRocStart1Word : Word := 0xBEEF2025#32
/-- First word of the single-ROC end pair. -/
def markRocEnd0Word : Word := 0xD07E2025#32
/-- Second word of the single-ROC end pair. -/
def markRocEnd1Word : Word := 0x12345678#32
/-- The ECON-D multi-sample start word. -/
def markMsStartWord : Word := 0xB33F2025#32
/-- The ECON-D multi-sample end word. -/
def markMsEndWord : Word := 0x12345678#32

/-- A stream word met by a scan, matched as a whole word (R85). -/
def decodeMarker (kind : ScanKind) (w : Word) : Decoded :=
  match kind with
  | .roc =>
    if w = markRocStart0Word then .instr .markRocStart0
    else if w = markRocStart1Word then .instr .markRocStart1
    else if w = markRocEnd0Word then .instr .markRocEnd0
    else if w = markRocEnd1Word then .instr .markRocEnd1
    else .notAMarker .roc w
  | .ms =>
    if w = markMsStartWord then .instr .markMsStart
    else if w = markMsEndWord then .instr .markMsEnd
    else .notAMarker .ms w

/-! ### Bit ranges of `MS_LAYOUT` (R84, R5) -/

/-- `w[hi:lo]` as the `n`-bit register it fills (R5). -/
def BitRange.get (r : BitRange) (w : Word) (n : Nat) : BitVec n :=
  BitVec.ofNat n ((w.toNat >>> r.lo) % 2 ^ (r.hi + 1 - r.lo))

/-- The word that holds `v` at the range and zeros elsewhere. -/
def BitRange.put (r : BitRange) {n : Nat} (v : BitVec n) : Word :=
  (v.setWidth 32) <<< r.lo

/-! ### The decoder -/

/-- The element whose bits are `w` at place `pl` (R62 to R85, R287, R89). -/
def decodeAt (p : Params) (pl : Place) (w : Word) : Decoded :=
  match pl with
  | .sample =>
    .instr (.sample (w.getLsbD 31) (w.getLsbD 30) (w.extractLsb' 20 10) (w.extractLsb' 10 10) (w.extractLsb' 0 10))
  | .daqHdr =>
    .instr (.daqHdr (w.extractLsb' 28 4) (w.extractLsb' 16 12) (w.extractLsb' 10 6) (w.extractLsb' 7 3)
      (w.getLsbD 6) (w.getLsbD 5) (w.getLsbD 4) (w.extractLsb' 0 4))
  | .daqCm => .instr (.daqCm (w.extractLsb' 20 12) (w.extractLsb' 10 10) (w.extractLsb' 0 10))
  | .daqCrc => .instr (.daqCrc w)
  | .trigSoft => .instr (.trigSoft w)
  | .trigData iBx =>
    if iBx < 4 then
      .instr (.trigData iBx (w.extractLsb' 28 4) (w.extractLsb' 21 7) (w.extractLsb' 14 7) (w.extractLsb' 7 7)
        (w.extractLsb' 0 7))
    else .noSuchPlace pl
  | .rocLen => .instr (.rocLen w)
  | .rocLtab k =>
    if k < 3 then .instr (.rocLtab k (w.extractLsb' 16 16) (w.extractLsb' 0 16)) else .noSuchPlace pl
  | .econdHdr0 =>
    .instr (.econdHdr0 (w.extractLsb' 23 9) (w.extractLsb' 14 9) (w.getLsbD 13) (w.getLsbD 12) (w.extractLsb' 10 2)
      (w.extractLsb' 8 2) (w.getLsbD 7) (w.getLsbD 6) (w.extractLsb' 0 6))
  | .econdHdr1 =>
    .instr (.econdHdr1 (w.extractLsb' 20 12) (w.extractLsb' 14 6) (w.extractLsb' 11 3) (w.getLsbD 10)
      (w.extractLsb' 8 2) (w.extractLsb' 0 8))
  | .econdTrl => .instr (.econdTrl w)
  | .erxHdr0 =>
    .instr (.erxHdr0 (w.extractLsb' 29 3) (w.extractLsb' 26 3) (w.getLsbD 25) (w.extractLsb' 15 10)
      (w.extractLsb' 5 10) (w.extractLsb' 0 5))
  | .erxHdr1 => .instr (.erxHdr1 w)
  | .channel slot => if slot < 37 then .instr (decodeRecord slot w) else .noSuchPlace pl
  | .ptSample slot => if slot < 37 then .instr (.ptSample slot w) else .noSuchPlace pl
  | .msHdr =>
    .instr (.msHdr (p.msLayout.flag.get w 4) (p.msLayout.index.get w 11) ((p.msLayout.soi.get w 1).getLsbD 0)
      (p.msLayout.length.get w 16))
  | .scan kind => decodeMarker kind w
  | .msPrefix => .instr (.msPrefix w)
  | .pad => .instr .pad
  | .crc32 a b => .instr (.crc32 a b)
  | .crc8 => .instr .crc8
  | .raw word => .instr (.raw word)

/-- The decoder, total on every coded form. -/
def decode (p : Params) (c : Coded) : Decoded :=
  match c with
  | .cmd n => decodeCommand n
  | .wire pl w => decodeAt p pl w

/-! ### The encoder -/

/-- The coded form of an instruction, from the same layouts (R62 to R90). -/
def encode (p : Params) : Instr → Coded
  | .sample tc tp a m t => .wire .sample (BitVec.ofBool tc ++ BitVec.ofBool tp ++ a ++ m ++ t)
  | .daqHdr lead bx event orbit f6 f5 f4 evt =>
    .wire .daqHdr (lead ++ bx ++ event ++ orbit ++ BitVec.ofBool f6 ++ BitVec.ofBool f5 ++ BitVec.ofBool f4 ++ evt)
  | .daqCm ignored cm0 cm1 => .wire .daqCm (ignored ++ cm0 ++ cm1)
  | .daqCrc crc => .wire .daqCrc crc
  | .trigSoft soft => .wire .trigSoft soft
  | .trigData iBx sync s0 s1 s2 s3 => .wire (.trigData iBx) (sync ++ s0 ++ s1 ++ s2 ++ s3)
  | .rocLen total => .wire .rocLen total
  | .rocLtab k hi lo => .wire (.rocLtab k) (hi ++ lo)
  | .econdHdr0 marker length passthrough expected ht ebo m truncated hamming =>
    .wire .econdHdr0 (marker ++ length ++ BitVec.ofBool passthrough ++ BitVec.ofBool expected ++ ht ++ ebo
      ++ BitVec.ofBool m ++ BitVec.ofBool truncated ++ hamming)
  | .econdHdr1 bx l1a orbit subErr rr crc =>
    .wire .econdHdr1 (bx ++ l1a ++ orbit ++ BitVec.ofBool subErr ++ rr ++ crc)
  | .econdTrl crc => .wire .econdTrl crc
  | .erxHdr0 stat ham isEmpty cm0 cm1 chmapHi =>
    .wire .erxHdr0 (stat ++ ham ++ BitVec.ofBool isEmpty ++ cm0 ++ cm1 ++ chmapHi)
  | .erxHdr1 chmapLo => .wire .erxHdr1 chmapLo
  | .zs0000 slot a m => .wire (.channel slot) (0b0000#4 ++ a ++ m ++ 0#8)
  | .zs0001 slot padBits m => .wire (.channel slot) (0b0001#4 ++ padBits ++ m ++ 0#16)
  | .zs0010 slot a m => .wire (.channel slot) (0b0010#4 ++ a ++ m ++ 0#8)
  | .zs0011 slot m t => .wire (.channel slot) (0b0011#4 ++ m ++ t ++ 0#8)
  | .fp01 slot a m t => .wire (.channel slot) (0b01#2 ++ a ++ m ++ t)
  | .fp10 slot a m t => .wire (.channel slot) (0b10#2 ++ a ++ m ++ t)
  | .fp11 slot a m t => .wire (.channel slot) (0b11#2 ++ a ++ m ++ t)
  | .ptSample slot word => .wire (.ptSample slot) word
  | .msHdr flag iSample soi length =>
    .wire .msHdr (p.msLayout.flag.put flag ||| p.msLayout.index.put iSample
      ||| p.msLayout.soi.put (BitVec.ofBool soi) ||| p.msLayout.length.put length)
  | .markRocStart0 => .wire (.scan .roc) markRocStart0Word
  | .markRocStart1 => .wire (.scan .roc) markRocStart1Word
  | .markRocEnd0 => .wire (.scan .roc) markRocEnd0Word
  | .markRocEnd1 => .wire (.scan .roc) markRocEnd1Word
  | .markMsStart => .wire (.scan .ms) markMsStartWord
  | .markMsEnd => .wire (.scan .ms) markMsEndWord
  | .msPrefix n => .wire .msPrefix n
  | .pad => .wire .pad 0#32
  | .crc32 a b => .wire (.crc32 a b) 0#32
  | .crc8 => .wire .crc8 0#32
  | .raw word => .wire (.raw word) 0#32
  | .nop => .cmd 0x00#6
  | .clrFault => .cmd 0x01#6
  | .clrLog => .cmd 0x02#6
  | .rdBits => .cmd 0x04#6
  | .peekBits => .cmd 0x05#6
  | .seekWord => .cmd 0x06#6
  | .seekByte => .cmd 0x07#6
  | .alignWord => .cmd 0x08#6
  | .atEnd => .cmd 0x09#6
  | .setSpan => .cmd 0x0A#6
  | .sampleDec => .cmd 0x10#6
  | .sampleEnc => .cmd 0x11#6
  | .crc32Span => .cmd 0x12#6
  | .crc8U64 => .cmd 0x13#6
  | .daqFrom => .cmd 0x14#6
  | .trigFrom => .cmd 0x15#6
  | .trigCsum => .cmd 0x16#6
  | .trigLsum => .cmd 0x17#6
  | .erxUnpack => .cmd 0x18#6
  | .econdFrom => .cmd 0x19#6
  | .msFrom => .cmd 0x1A#6
  | .rocFrom => .cmd 0x1B#6
  | .fmtStart => .cmd 0x1C#6
  | .fmtAdd => .cmd 0x1D#6
  | .fmtFinish => .cmd 0x1E#6
  | .scanRoc => .cmd 0x20#6
  | .scanMs => .cmd 0x21#6

/-! ### A table word without its place (log 4)

A row's word alone does not say where it stands: of the rows of that width whose fixed bits fit, the one with the
most fixed bits is taken, and of equals the first in the table's order. -/

/-- The coded form the word `w` of `nbits` table bits is read as. -/
def tableCoded (nbits w : Nat) : Option Coded :=
  match nbits with
  | 0 => if w = 0 then some (.wire .pad 0#32) else none
  | 8 => if w < 64 then some (.cmd (BitVec.ofNat 6 w)) else none
  | 16 =>
    if classify (BitVec.ofNat 4 (w >>> 12)) = .zs0001 ∧ w < 2 ^ 16 then
      some (.wire (.channel 0) (BitVec.ofNat 32 (w <<< 16)))
    else none
  | 24 =>
    if (classify (BitVec.ofNat 4 (w >>> 20))).recordBits = 24 ∧ w < 2 ^ 24 then
      some (.wire (.channel 0) (BitVec.ofNat 32 (w <<< 8)))
    else none
  | 32 =>
    if w < 2 ^ 32 then
      let v := BitVec.ofNat 32 w
      if v = markRocStart0Word ∨ v = markRocStart1Word ∨ v = markRocEnd0Word ∨ v = markRocEnd1Word then
        some (.wire (.scan .roc) v)
      else if v = markMsStartWord then some (.wire (.scan .ms) v)
      else if v.extractLsb' 28 4 = 0xF#4 then some (.wire .daqHdr v)
      else if v.extractLsb' 30 2 = 0#2 then some (.wire .sample v)
      else some (.wire (.channel 0) v)
    else none
  | _ => none

/-- The instruction the decoder reads from a table word (log 4), under the default parameters. -/
def decodeTableWord (nbits w : Nat) : Option Instr :=
  match tableCoded nbits w with
  | some c =>
    match decode Params.default c with
    | .instr i => some i
    | _ => none
  | none => none

end Sys2Proof
end

