-- ==== Sys2Proof/Machine/Erx.lean ====
section
/-! DEFINITION. The ECON-D link sub-packet decoder: header, presence bitmap, the seven channel-record codes,
passthrough, rounding and faults (44_erx_subpacket.md). -/

namespace Sys2Proof.Machine

/-! ### Channel records -/

/-- The sample word a record gives its slot, from its payload `v` of `recordBits - codeBits` bits, right-aligned in a
word (R182 to R188). -/
def recordWord (k : RecClass) (v : Word) : Word :=
  match k with
  | .zs0000 => sampleWord false false (slotM v) (slotT v) 0#10
  | .zs0001 => sampleWord false false 0#10 (slotT v) 0#10
  | .zs0010 => sampleWord false true (slotM v) (slotT v) 0#10
  | .zs0011 => sampleWord false false 0#10 (slotM v) (slotT v)
  | .fp01 => sampleWord false false (slotA v) (slotM v) (slotT v)
  | .fp10 => sampleWord true false (slotA v) (slotM v) (slotT v)
  | .fp11 => sampleWord true true (slotA v) (slotM v) (slotT v)

/-- The record of class `k` logs `invalid_code` (R187, R192). -/
def recordInvalid : RecClass → Bool
  | .fp10 => true
  | .zs0000 | .zs0001 | .zs0010 | .zs0011 | .fp01 | .fp11 => false

/-- A decoded record: the 4 bits peeked, the slot's word, and whether the code is the known invalid one. -/
structure Rec where
  code : BitVec 4
  word : Word
  invalid : Bool
  next : Nat
  deriving DecidableEq, Repr

/-- `peek_bits(4)`, `classify`, `decode_record` at bit position `p` (R175, R181 to R188): the peek raises at `p`, the
payload's read raises at the position after the code (R191). -/
def readRecord (ws : List Word) (p : Nat) : Except Raise Rec :=
  if 32 * ws.length < p + 4 then .error ⟨.lengthError, p⟩
  else
    let c := bitRead ws p 4
    let k := classify c
    if 32 * ws.length < p + k.recordBits then .error ⟨.lengthError, p + k.codeBits⟩
    else
      .ok ⟨c, recordWord k ((bitRead ws (p + k.codeBits) (k.recordBits - k.codeBits)).setWidth 32), recordInvalid k,
        p + k.recordBits⟩

/-- A present slot's record stored (R175). -/
def storeRecord (d : Link) (slot : Nat) (r : Rec) : Link :=
  storeSlot (storeCode d slot r.code) slot r.word

/-- The loop over the slots from `slot` on, `n` of them (R175, R189): the record and the cursor at the end. -/
def unpackSlots (o : ChmapOrder) (ws : List Word) : (n slot p : Nat) → Link → Acc → Run (Link × Nat)
  | 0, _, p, d, c => .done (d, p) c
  | n + 1, slot, p, d, c =>
    if present o d.chmap slot then
      match readRecord ws p with
      | .error e => .stop e c
      | .ok r =>
        unpackSlots o ws n (slot + 1) r.next (storeRecord d slot r)
          { c with log := c.log.setInvalidCode r.invalid }
    else unpackSlots o ws n (slot + 1) p (storeSlot d slot 0#32) c

/-! ### The operation -/

/-- The header word into a fresh record (R175, R176); the bitmap's high part only when the sub-packet is not empty
(R177, R178). -/
def applyErxHdr0 (stat ham : BitVec 3) (isEmpty : Bool) (cm0 cm1 : BitVec 10) (chmapHi : BitVec 5) : Link :=
  { Link.zero with
    stat := stat, ham := ham, isEmpty := isEmpty, adcCm0 := cm0, adcCm1 := cm1,
    chmap := if isEmpty then 0#37 else chmapHi ++ 0#32, nwords := if isEmpty then 1 else 0 }

/-- The bitmap's low 32 bits into the record (R178). -/
def applyErxHdr1 (chmapLo : Word) (d : Link) : Link :=
  { d with chmap := d.chmap.extractLsb' 32 5 ++ chmapLo }

/-- The number of header words of a passthrough sub-packet (R180). -/
def PtHeader.words : PtHeader → Nat
  | .one => 1
  | .two => 2

/-- The verbatim copy of passthrough mode (R180). -/
def passthroughRecord (h : PtHeader) (ws : List Word) (d0 d1 : Link) : Link :=
  match h with
  | .two => { storeSlots (fun k => wordAt ws (2 + k)) 37 d1 with nwords := 39 }
  | .one => { storeSlots (fun k => wordAt ws (1 + k)) 37 { d0 with chmap := 0#37 } with nwords := 38 }

/-- `ERX_UNPACK passthrough` on the words of a span (R175): the record; `consumed` is its `nwords`. -/
def unpackSubpacket (pr : Params) (ws : List Word) (passthrough : Bool) (c : Acc) : Run Link :=
  if ws.length = 0 then .stop ⟨.lengthError, 0⟩ c
  else
    let w0 := wordAt ws 0
    let d0 :=
      applyErxHdr0 (w0.extractLsb' 29 3) (w0.extractLsb' 26 3) (w0.getLsbD 25) (w0.extractLsb' 15 10)
        (w0.extractLsb' 5 10) (w0.extractLsb' 0 5)
    if w0.getLsbD 25 then .done d0 c
    else if ws.length = 1 then .stop ⟨.lengthError, 1⟩ c
    else
      let d1 := applyErxHdr1 (wordAt ws 1) d0
      if passthrough then
        if ws.length < PtHeader.words pr.ptHeader + 37 then .stop ⟨.lengthError, ws.length⟩ c
        else .done (passthroughRecord pr.ptHeader ws d0 d1) c
      else
        match unpackSlots pr.chmapOrder ws 37 0 64 d1 c with
        | .stop e c' => .stop e c'
        | .done (d, p) c' => .done { d with nwords := ceilWords p } c'

/-- `ERX_UNPACK passthrough` (R175, R110, R198). -/
def execErxUnpack (s : State) : Result :=
  onSpan .erx 0x18#6 s fun ws =>
    finish .erx 0x18#6 s (unpackSubpacket s.params ws (argPassthrough s) s.acc) fun d s' =>
      { s' with erx := d, erxConsumed := d.nwords, p := 32 * d.nwords }

/-! ### Single elements at the cursor (log 3) -/

/-- An `ERX.HDR0` word at the cursor (R176, R177): it opens the record; an empty sub-packet is this word. -/
def execErxHdr0 (stat ham : BitVec 3) (isEmpty : Bool) (cm0 cm1 : BitVec 10) (chmapHi : BitVec 5) (s : State) :
    Result :=
  onWord .erx 0x18#6 s fun _ s' =>
    .next
      { s' with
        erx := applyErxHdr0 stat ham isEmpty cm0 cm1 chmapHi,
        erxConsumed := (applyErxHdr0 stat ham isEmpty cm0 cm1 chmapHi).nwords }

/-- An `ERX.HDR1` word at the cursor (R178). -/
def execErxHdr1 (chmapLo : Word) (s : State) : Result :=
  onWord .erx 0x18#6 s fun _ s' => .next { s' with erx := applyErxHdr1 chmapLo s.erx }

/-- A `PT.SAMPLE` word at the cursor, copied verbatim into slot `slot` (R180). -/
def execPtSample (slot : Nat) (word : Word) (s : State) : Result :=
  onWord .erx 0x18#6 s fun _ s' => .next { s' with erx := storeSlot s.erx slot word }

/-- One channel record of class `k` at the cursor, for slot `slot`: `c` the 4 bits peeked, `w` the slot's word
(R175, R181). -/
def recordAt (k : RecClass) (slot : Nat) (c : BitVec 4) (w : Word) (s : State) : Result :=
  onElement .erx 0x18#6 4 k.codeBits k.recordBits s fun _ s' =>
    .next
      { s' with
        erx := storeSlot (storeCode s.erx slot c) slot w, log := s.log.setInvalidCode (recordInvalid k) }

/-- A `ZS0000` record (R182). -/
def execZs0000 (slot : Nat) (a m : BitVec 10) (s : State) : Result :=
  recordAt .zs0000 slot 0b0000#4 (sampleWord false false a m 0#10) s

/-- A `ZS0001` record (R183); the pad bits are ignored. -/
def execZs0001 (slot : Nat) (_padBits : BitVec 2) (m : BitVec 10) (s : State) : Result :=
  recordAt .zs0001 slot 0b0001#4 (sampleWord false false 0#10 m 0#10) s

/-- A `ZS0010` record (R184). -/
def execZs0010 (slot : Nat) (a m : BitVec 10) (s : State) : Result :=
  recordAt .zs0010 slot 0b0010#4 (sampleWord false true a m 0#10) s

/-- A `ZS0011` record (R185). -/
def execZs0011 (slot : Nat) (m t : BitVec 10) (s : State) : Result :=
  recordAt .zs0011 slot 0b0011#4 (sampleWord false false 0#10 m t) s

/-- An `FP01` record (R186); the low two peeked bits are the top two of `adc_tm1` (R181). -/
def execFp01 (slot : Nat) (a m t : BitVec 10) (s : State) : Result :=
  recordAt .fp01 slot (0b01#2 ++ a.extractLsb' 8 2) (sampleWord false false a m t) s

/-- An `FP10` record (R187), known invalid: logged, not rejected. -/
def execFp10 (slot : Nat) (a m t : BitVec 10) (s : State) : Result :=
  recordAt .fp10 slot (0b10#2 ++ a.extractLsb' 8 2) (sampleWord true false a m t) s

/-- An `FP11` record (R188). -/
def execFp11 (slot : Nat) (a m t : BitVec 10) (s : State) : Result :=
  recordAt .fp11 slot (0b11#2 ++ a.extractLsb' 8 2) (sampleWord true true a m t) s

end Sys2Proof.Machine
end

