-- ==== Sys2Proof/Machine/EcondPacket.lean ====
section
/-! DEFINITION. The ECON-D event packet: header, header CRC-8, link loop, trailer; and the multi-sample envelope
(45_econd_packet.md). -/

namespace Sys2Proof.Machine

/-! ### Header -/

/-- The first header word into the record (R210). -/
def applyEcondHdr0 (marker length : BitVec 9) (passthrough expected : Bool) (ht ebo : BitVec 2) (m truncated : Bool)
    (hamming : BitVec 6) (e : Econd) : Econd :=
  { e with
    marker := marker, length := length, passthrough := passthrough, expected := expected, ht := ht, ebo := ebo,
    m := m, truncated := truncated, hamming := hamming }

/-- The first header word a record was read from: the fields of R210 fill the word. -/
def econdWord0 (e : Econd) : Word :=
  e.marker ++ e.length ++ BitVec.ofBool e.passthrough ++ BitVec.ofBool e.expected ++ e.ht ++ e.ebo
    ++ BitVec.ofBool e.m ++ BitVec.ofBool e.truncated ++ e.hamming

/-- The second header word, from its fields (R71). -/
def econdWord1 (bx : BitVec 12) (l1a : BitVec 6) (orbit : BitVec 3) (subErr : Bool) (rr : BitVec 2)
    (crc : BitVec 8) : Word :=
  bx ++ l1a ++ orbit ++ BitVec.ofBool subErr ++ rr ++ crc

/-- The second header word into the record, with all `ECOND_FROM` does before its link loop (R211, R212): `free0`
and `free1` are the free values of `corruption[0]` and `[1]` (R214), `n` the number of links. -/
def applyEcondHdr1 (pr : Params) (n : Nat) (free0 free1 : Bool) (bx : BitVec 12) (l1a : BitVec 6) (orbit : BitVec 3)
    (subErr : Bool) (rr : BitVec 2) (crc : BitVec 8) (e : Econd) : Econd :=
  { e with
    bx := bx, l1a := l1a, orbit := orbit, subpacketError := subErr, rr := rr, crc8 := crc,
    corruption :=
      #v[free0, free1, headerCrcFlag pr (econdWord0 e) (econdWord1 bx l1a orbit subErr rr crc) crc, false],
    links := List.replicate n Link.zero, trailer := 0#32, nwords := if e.truncated then 2 else e.nwords }

/-- The record after the header of a packet (R212, up to its link loop). -/
def econdHeader (pr : Params) (n draws : Nat) (w0 w1 : Word) : Econd :=
  applyEcondHdr1 pr n (Config.freeBit draws) (Config.freeBit (draws + 1)) (w1.extractLsb' 20 12) (w1.extractLsb' 14 6)
    (w1.extractLsb' 11 3) (w1.getLsbD 10) (w1.extractLsb' 8 2) (w1.extractLsb' 0 8)
    (applyEcondHdr0 (w0.extractLsb' 23 9) (w0.extractLsb' 14 9) (w0.getLsbD 13) (w0.getLsbD 12) (w0.extractLsb' 10 2)
      (w0.extractLsb' 8 2) (w0.getLsbD 7) (w0.getLsbD 6) (w0.extractLsb' 0 6) (Econd.zero n))

/-! ### Link loop and trailer -/

/-- `bx/event/orbit` stamped from the event header onto a link (R222). -/
def stampLink (e : Econd) (d : Link) : Link :=
  { d with bx := e.bx, event := e.l1a, orbit := e.orbit }

/-- The link loop (R221): `n` sub-packets from word `off` on; the links in order and the offset after the last. -/
def unpackLinks (pr : Params) (ws : List Word) (e : Econd) : (n off : Nat) → Acc → Run (List Link × Nat)
  | 0, off, c => .done ([], off) c
  | n + 1, off, c =>
    match unpackSubpacket pr (ws.drop off) e.passthrough c with
    | .stop r c' => .stop r c'
    | .done d c' =>
      match unpackLinks pr ws e n (off + d.nwords) c' with
      | .stop r c'' => .stop r c''
      | .done (ds, off') c'' => .done (stampLink e d :: ds, off') c''

/-- The trailer word at offset `off` into the record (R223, R226). -/
def applyEcondTrl (ws : List Word) (off : Nat) (trailer : Word) (e : Econd) : Econd :=
  { e with
    trailer := trailer, corruption := e.corruption.set 3 (trailerCrcFlag ws off trailer), nwords := off + 1 }

/-- The warning at the end of `ECOND_FROM` (R212, last line). -/
def econdWarn (e : Econd) : Bool := e.corruption[2] || e.corruption[3]

/-- `ECOND_FROM` on the words of a span, for `n` links (R212). -/
def econdFrom (pr : Params) (n : Nat) (ws : List Word) (c : Acc) : Run Econd :=
  if ws.length < 2 then .stop ⟨.lengthError, ws.length⟩ c
  else
    let e := econdHeader pr n c.draws (wordAt ws 0) (wordAt ws 1)
    let c1 : Acc := { c with draws := c.draws + 2 }
    if e.truncated then .done e { c1 with log := c1.log.setHdrWarn (econdWarn e) }
    else
      match unpackLinks pr ws e n 2 c1 with
      | .stop r c2 => .stop r c2
      | .done (links, off) c2 =>
        if ws.length ≤ off then .stop ⟨.lengthError, off⟩ c2
        else
          let e' := applyEcondTrl ws off (wordAt ws off) { e with links := links }
          .done e' { c2 with log := c2.log.setHdrWarn (econdWarn e') }

/-- The number of links `CFG_NLINKS` configures (R28). -/
def configuredLinks (s : State) : Nat := s.cfgNlinks.toNat

/-- `ECOND_FROM` (R212). -/
def execEcondFrom (s : State) : Result :=
  onSpan .econd 0x19#6 s fun ws =>
    finish .econd 0x19#6 s (econdFrom s.params (configuredLinks s) ws s.acc) fun e s' => { s' with econd := e }

/-- `CRC8_U64 hi, lo` (R218). -/
def execCrc8U64 (s : State) : Result :=
  whenIdle s (.next { s with crc8 := crc8Of s.params.crc8Poly (s.arg0 ++ s.arg1) })

/-! ### Single header and trailer words at the cursor (log 3) -/

/-- An `ECOND.HDR0` word at the cursor (R210). -/
def execEcondHdr0 (marker length : BitVec 9) (passthrough expected : Bool) (ht ebo : BitVec 2) (m truncated : Bool)
    (hamming : BitVec 6) (s : State) : Result :=
  onWord .econd 0x19#6 s fun _ s' =>
    .next { s' with econd := applyEcondHdr0 marker length passthrough expected ht ebo m truncated hamming s.econd }

/-- An `ECOND.HDR1` word at the cursor (R211 to R217): with the first header word the record holds it completes the
header; a truncated packet ends here (R219). -/
def execEcondHdr1 (bx : BitVec 12) (l1a : BitVec 6) (orbit : BitVec 3) (subErr : Bool) (rr : BitVec 2)
    (crc : BitVec 8) (s : State) : Result :=
  onWord .econd 0x19#6 s fun _ s' =>
    let e :=
      applyEcondHdr1 s.params (configuredLinks s) (Config.freeBit s.draws) (Config.freeBit (s.draws + 1)) bx l1a orbit
        subErr rr crc s.econd
    .next
      { s' with
        econd := e, draws := s.draws + 2, log := s.log.setHdrWarn (e.truncated && econdWarn e) }

/-- An `ECOND.TRL` word at the cursor (R223): the sub-packet words are the span's words from 2 up to it. -/
def execEcondTrl (crc : Word) (s : State) : Result :=
  onWord .econd 0x19#6 s fun ws s' =>
    .next
      { s' with
        econd := applyEcondTrl ws (s.p / 32) crc s.econd,
        log := s.log.setHdrWarn (econdWarn (applyEcondTrl ws (s.p / 32) crc s.econd)) }

/-! ### Multi-sample envelope -/

/-- One group of the envelope, its header word at offset `off` already extracted (the loop body of R231). -/
def msGroup (pr : Params) (n : Nat) (ws : List Word) (off : Nat) (flag : BitVec 4) (iSample : BitVec 11) (soi : Bool)
    (length : BitVec 16) (m : Ms) (c : Acc) : Run Ms :=
  if ws.length < off + 1 + length.toNat then .stop ⟨.lengthError, off⟩ c
  else
    match econdFrom pr n ((ws.drop (off + 1)).take length.toNat) c with
    | .stop r c' => .stop r c'
    | .done e c' =>
      .done
        { samples := m.samples ++ [⟨flag, iSample, soi, length, e⟩],
          iSoi := if soi && decide (m.iSoi = -1) then (m.samples.length : Int) else m.iSoi }
        c'

/-- The loop of `MS_FROM` (R231, R232), with room for `room` more samples. -/
def msLoop (pr : Params) (n : Nat) (ws : List Word) : (room off : Nat) → Ms → Acc → Run Ms
  | 0, off, m, c => if off < ws.length then .stop ⟨.badFormat, off⟩ c else .done m c
  | room + 1, off, m, c =>
    if off < ws.length then
      let h := wordAt ws off
      let length := pr.msLayout.length.get h 16
      match
        msGroup pr n ws off (pr.msLayout.flag.get h 4) (pr.msLayout.index.get h 11)
          ((pr.msLayout.soi.get h 1).getLsbD 0) length m c with
      | .stop r c' => .stop r c'
      | .done m' c' => msLoop pr n ws room (off + 1 + length.toNat) m' c'
    else .done m c

/-- `MS_FROM` on the words of a span (R231). -/
def msFrom (pr : Params) (n : Nat) (ws : List Word) (c : Acc) : Run Ms :=
  msLoop pr n ws pr.maxSamples 0 Ms.zero c

/-- `MS_FROM` (R231). -/
def execMsFrom (s : State) : Result :=
  onSpan .ms 0x1A#6 s fun ws =>
    finish .ms 0x1A#6 s (msFrom s.params (configuredLinks s) ws s.acc) fun m s' => { s' with ms := m }

/-- An `MS.HDR` word at the cursor (R230, R231, log 3): with the packet it announces it is the next sample of the
envelope; the cursor moves past the packet. -/
def execMsHdr (flag : BitVec 4) (iSample : BitVec 11) (soi : Bool) (length : BitVec 16) (s : State) : Result :=
  onWord .ms 0x1A#6 s fun ws s' =>
    if s.params.maxSamples ≤ s.ms.samples.length then .next (abort .ms 0x1A#6 ⟨.badFormat, s.p / 32⟩ s)
    else
      finish .ms 0x1A#6 s'
        (msGroup s.params (configuredLinks s) ws (s.p / 32) flag iSample soi length s.ms s.acc) fun m s'' =>
        { s'' with ms := m, p := 32 * (s.p / 32 + 1 + length.toNat) }

end Sys2Proof.Machine
end

