-- ==== Sys2Proof/Machine/Formatter.lean ====
section
/-! DEFINITION. The ECON-D formatter (47_formatter.md). -/

namespace Sys2Proof.Machine

/-! ### The write primitive (R256) -/

/-- One bit at the write cursor; a word is zeroed when its first bit is written (R256). -/
def writeBit (b : Bool) (f : BitBuf) : BitBuf :=
  let m := if f.op % 32 = 0 then Memory.writeWord f.mem (f.op / 32) 0#32 else f.mem
  let bit := BitVec.ofNat 32 (2 ^ (31 - f.op % 32))
  let w := Memory.readWord m (f.op / 32)
  { mem := Memory.writeWord m (f.op / 32) (if b then w ||| bit else w &&& ~~~bit), op := f.op + 1 }

/-- The low `n` bits of `v`, the most significant first (R256). -/
def writeBits : Nat → Nat → BitBuf → BitBuf
  | 0, _, f => f
  | n + 1, v, f => writeBits n v (writeBit (v.testBit n) f)

/-- A field to write: `n` bits of value `v`. -/
structure Field where
  n : Nat
  v : Nat
  deriving DecidableEq, Repr

/-- `write_bits(n, v)` (R256): it raises when the output would pass `OBUF`. -/
def writeField (pr : Params) (x : Field) (f : BitBuf) : Except Raise BitBuf :=
  if 32 * pr.obufWords < f.op + x.n then .error ⟨.lengthError, f.op⟩ else .ok (writeBits x.n x.v f)

/-- Fields in order. -/
def writeFields (pr : Params) : List Field → BitBuf → Except Raise BitBuf
  | [], f => .ok f
  | x :: xs, f =>
    match writeField pr x f with
    | .error e => .error e
    | .ok f' => writeFields pr xs f'

/-- The field of `pad_to_word()` at write cursor `op` (R256). -/
def padField (op : Nat) : Field := ⟨(32 - op % 32) % 32, 0⟩

/-- The formatter's buffer in the state. -/
def fmtBuf (s : State) : BitBuf := ⟨s.obuf, s.op⟩

/-- The state with the formatter's buffer replaced; `OLEN = ceil(OP / 32)` (R24). -/
def State.withFmt (s : State) (f : BitBuf) : State :=
  { s with obuf := f.mem, op := f.op, olen := ceilWords f.op }

/-- The outcome of an operation that has written fields. -/
def finishFmt (op : BitVec 6) (s : State) (r : Except Raise BitBuf) (put : State → State) : Result :=
  match r with
  | .error e => .next (abort .fmt op e s)
  | .ok f => .next (put (s.withFmt f))

/-! ### `FMT_START` (R257) -/

/-- The two header words `FMT_START` writes. -/
def startFields (pr : Params) (bx l1a orbit : Word) : List Field :=
  [⟨32, pr.econdMarker.toNat <<< 23⟩,
   ⟨32, (econdWord1 (bx.extractLsb' 0 12) (l1a.extractLsb' 0 6) (orbit.extractLsb' 0 3) false 0#2 0#8).toNat⟩]

/-- `FMT_START bx, l1a, orbit` (R257). -/
def execFmtStart (s : State) : Result :=
  whenIdle s
    (finishFmt 0x1C#6 s (writeFields s.params (startFields s.params s.arg0 s.arg1 s.arg2) ⟨s.obuf, 0⟩)
      fun s' => { s' with fmtNlinks := 0, fmtOpen := true })

/-! ### `FMT_ADD` (R258 to R263) -/

/-- `zs_process(w)` (R260). -/
def zsProcess (zsEn : Bool) (w : Word) : RecClass :=
  match w.getLsbD 31, w.getLsbD 30 with
  | true, true => .fp11
  | true, false => .fp10
  | false, true => .zs0010
  | false, false => if zsEn && decide (slotT w = 0#10) then .zs0001 else .fp01

/-- The fields of the record of class `k` for source word `w` (R258, R76 to R82). -/
def recordFields (k : RecClass) (w : Word) : List Field :=
  let a : Field := ⟨10, (slotA w).toNat⟩
  let m : Field := ⟨10, (slotM w).toNat⟩
  let t : Field := ⟨10, (slotT w).toNat⟩
  match k with
  | .zs0000 => [⟨4, 0b0000⟩, a, m]
  | .zs0001 => [⟨4, 0b0001⟩, ⟨2, 0⟩, m]
  | .zs0010 => [⟨4, 0b0010⟩, a, m]
  | .zs0011 => [⟨4, 0b0011⟩, m, t]
  | .fp01 => [⟨2, 0b01⟩, a, m, t]
  | .fp10 => [⟨2, 0b10⟩, a, m, t]
  | .fp11 => [⟨2, 0b11⟩, a, m, t]

/-- The sub-packet header the formatter writes, every slot present (R258, R259). -/
def subpacketHeaderFields (pr : Params) (cm0 cm1 : BitVec 10) : List Field :=
  [⟨3, pr.fmtStat.toNat⟩, ⟨3, pr.fmtHam.toNat⟩, ⟨1, 0⟩, ⟨10, cm0.toNat⟩, ⟨10, cm1.toNat⟩, ⟨5, 0b11111⟩,
   ⟨32, 0xFFFFFFFF⟩]

/-- The records of slots `slot, slot + 1, …`, `n` of them, of the source frame `ws` (R258). -/
def channelFields (zsEn : Bool) (ws : List Word) : (n slot : Nat) → List Field
  | 0, _ => []
  | n + 1, slot =>
    recordFields (zsProcess zsEn (wordAt ws (2 + slot))) (wordAt ws (2 + slot)) ++ channelFields zsEn ws n (slot + 1)

/-- The fields of the whole sub-packet before its padding (R258). -/
def subpacketFields (pr : Params) (zsEn : Bool) (ws : List Word) : List Field :=
  subpacketHeaderFields pr (slotM (wordAt ws 1)) (slotT (wordAt ws 1)) ++ channelFields zsEn ws 37 0

/-- A sub-packet written and padded to a whole word (R258). -/
def writeSubpacket (pr : Params) (zsEn : Bool) (ws : List Word) (f : BitBuf) : Except Raise BitBuf :=
  match writeFields pr (subpacketFields pr zsEn ws) f with
  | .error e => .error e
  | .ok f' => writeField pr (padField f'.op) f'

/-- `FMT_ADD ilink` (R258, R268). -/
def execFmtAdd (s : State) : Result :=
  onSpan .fmt 0x1D#6 s fun ws =>
    if !s.fmtOpen then .next (abort .fmt 0x1D#6 ⟨.badFormat, 0⟩ s)
    else if arg0Nat s ≠ s.fmtNlinks ∨ 11 < arg0Nat s then .next (abort .fmt 0x1D#6 ⟨.badFormat, arg0Nat s⟩ s)
    else if ws.length ≠ 40 then .next (abort .fmt 0x1D#6 ⟨.badLength, ws.length⟩ s)
    else
      finishFmt 0x1D#6 s (writeSubpacket s.params s.cfgZsEn ws (fmtBuf s))
        fun s' => { s' with fmtNlinks := s.fmtNlinks + 1 }

/-! ### `FMT_FINISH` (R264, R265) -/

/-- The finished header of the bit-exact form: `length` is the words after the header, modulo 512, then `crc8` is
computed over the finished words (R264, R265). -/
def exactHeader (pr : Params) (olen : Nat) (m : Memory) : Memory :=
  let w0 := Memory.readWord m 0 ||| BitVec.ofNat 32 (((olen - 2 + 1) % 512) <<< 14)
  let m0 := Memory.writeWord m 0 w0
  let w1 := Memory.readWord m0 1 ||| (headerCrc8 pr w0 (Memory.readWord m0 1)).setWidth 32
  Memory.writeWord m0 1 w1

/-- The buffer after `FMT_FINISH` (R264). -/
def finishPacket (pr : Params) (olen : Nat) (f : BitBuf) : Except Raise BitBuf :=
  match pr.fmtFidelity with
  | .sourcePlaceholder => writeField pr ⟨32, 0xFFFFFFFF⟩ f
  | .bitExact =>
    let m := exactHeader pr olen f.mem
    writeField pr ⟨32, (crc32Of (Memory.words m 2 (olen - 2))).toNat⟩ { f with mem := m }

/-- `FMT_FINISH` (R264, R268). -/
def execFmtFinish (s : State) : Result :=
  whenIdle s
    (if !s.fmtOpen then .next (abort .fmt 0x1E#6 ⟨.badFormat, 0⟩ s)
    else finishFmt 0x1E#6 s (finishPacket s.params s.olen (fmtBuf s)) fun s' => { s' with fmtOpen := false })

end Sys2Proof.Machine
end

