-- ==== Sys2Proof/Machine/Frame.lean ====
section
/-! DEFINITION. The pseudo-elements of the frame notation (R89) and the frame they expand into. The frame is the host's:
it is no part of the block, so nothing here reads or writes a register or a buffer of it, and a pending fault blocks
nothing (log 17). -/

namespace Sys2Proof.Machine

/-- The number of whole words of the frame written so far. -/
def frameWords (s : State) : Nat := s.frame.op / 32

/-- `n` bits of value `v` appended to the frame. -/
def appendFrame (n v : Nat) (s : State) : State := { s with frame := writeBits n v s.frame }

/-- The model's free word in the place of a value R89 does not give, and the state with it drawn. -/
def drawFrameWord (s : State) : Word × State :=
  (Config.freeWord s.draws, { s with draws := s.draws + 1 })

/-- `CRC32` of words `a` to `b` of a frame, both inclusive; of no word when `b < a` (R89). -/
def crc32Range (m : Memory) (a b : Nat) : BitVec 32 :=
  crc32Of (Memory.words m a (b + 1 - a))

/-- `PAD`: zero bits up to the next word boundary, nothing if already aligned (R89). -/
def execPad (s : State) : Result :=
  .next (appendFrame (padField s.frame.op).n (padField s.frame.op).v s)

/-- `RAW xxxxxxxx`: one literal word (R89). -/
def execRaw (word : Word) (s : State) : Result :=
  .next (appendFrame 32 word.toNat s)

/-- `CRC32 a..b`: one word holding the CRC-32 of words `a` to `b` of the frame being written (R89); a free word where
one of them is not whole yet. -/
def execCrc32 (a b : Nat) (s : State) : Result :=
  if b < a ∨ b < frameWords s then .next (appendFrame 32 (crc32Range s.frame.mem a b).toNat s)
  else .next (appendFrame 32 (drawFrameWord s).1.toNat (drawFrameWord s).2)

/-- `CRC8`: the 8 bits `CRC8(base(W0, W1))` placed in bits [7:0] of the frame's word 1 (R89); a free byte where the two
words are not whole yet. -/
def execCrc8 (s : State) : Result :=
  let put (c : BitVec 8) (s' : State) : State :=
    { s' with frame := { s'.frame with mem := Memory.writeByte s'.frame.mem 7 c } }
  if 2 ≤ frameWords s then
    .next (put (headerCrc8 s.params (Memory.readWord s.frame.mem 0) (Memory.readWord s.frame.mem 1)) s)
  else .next (put ((drawFrameWord s).1.extractLsb' 0 8) (drawFrameWord s).2)

/-! ### The host's own part -/

/-- A new frame. -/
def hostFrameNew (s : State) : Result :=
  .next { s with frame := ⟨[], 0⟩ }

/-- One element's line (R89). -/
def hostFrameBits (n v : Nat) (s : State) : Result :=
  .next (appendFrame n v s)

/-- The frame's words written to `IBUF[0 ..]` and their number to `ILEN` (R11), a last word not whole filled up with
zeros. -/
def hostFrameLoad (s : State) : Result :=
  if ceilWords s.frame.op ≤ s.params.ibufWords then
    .next
      { s with
        ibuf := Memory.writeWords s.ibuf 0 (Memory.words s.frame.mem 0 (ceilWords s.frame.op)),
        ilen := ceilWords s.frame.op }
  else .refused .ilenOutOfRange

end Sys2Proof.Machine
end

