-- ==== Sys2Proof/Machine/Housekeeping.lean ====
section
/-! DEFINITION. The housekeeping operations `NOP`, `CLR_FAULT`, `CLR_LOG` (R320 to R322); they act also while a
fault is pending (R304). -/

namespace Sys2Proof.Machine

/-- `NOP` (R320). -/
def execNop (s : State) : Result := .next s

/-- `CLR_FAULT` (R321). -/
def execClrFault (s : State) : Result := .next (clearFault s)

/-- `CLR_LOG` (R322). -/
def execClrLog (s : State) : Result := .next { s with log := Log.zero }

end Sys2Proof.Machine
end

