-- ==== Sys2Proof/Machine/Sample.lean ====
section
/-! DEFINITION. The sample codec (41_sample.md). -/

namespace Sys2Proof.Machine

/-- The decode of a sample word, by the four modes (R121 to R125); -1 marks a field the mode does not populate. -/
def decodeSample (w : Word) : Samp :=
  let a : Int := (slotA w).toNat
  let m : Int := (slotM w).toNat
  let t : Int := (slotT w).toNat
  match w.getLsbD 31, w.getLsbD 30 with
  | false, false => ⟨false, false, a, m, -1, t, w⟩
  | false, true => ⟨false, true, a, m, -1, t, w⟩
  | true, true => ⟨true, true, a, -1, m, t, w⟩
  | true, false => ⟨true, false, -1, m, -1, t, w⟩

/-- The word `SAMPLE_ENC` builds (R126): `Tc = Tp = 1` and `tot` in the main slot exactly when `tot > 0`. -/
def encodeSample (adcTm1 adc tot toa : BitVec 11) : Word :=
  let f := decide (0 < tot.toInt)
  sampleWord f f (clampNeg adcTm1) (if f then clampNeg tot else clampNeg adc) (clampNeg toa)

/-- `SAMPLE_DEC word` (R121). -/
def execSampleDec (s : State) : Result :=
  whenIdle s (.next { s with samp := decodeSample s.arg0 })

/-- `SAMPLE_ENC adc_tm1, adc, tot, toa` (R126): only `SAMP.word` is written. -/
def execSampleEnc (s : State) : Result :=
  whenIdle s
    (.next
      { s with
        samp :=
          { s.samp with
            word := encodeSample (argSigned s.arg0) (argSigned s.arg1) (argSigned s.arg2) (argSigned s.arg3) } })

/-- A `SAMPLE` word at the cursor (R62, R121, log 3): read as `RD_BITS 32` reads, decoded into `SAMP`. -/
def execSample (tc tp : Bool) (a m t : BitVec 10) (s : State) : Result :=
  onWord .resOnly 0x04#6 s fun _ s' => .next { s' with samp := decodeSample (sampleWord tc tp a m t) }

end Sys2Proof.Machine
end

