-- ==== Sys2Proof/Machine/SingleRoc.lean ====
section
/-! DEFINITION. The single-ROC event packet assembler (46_singleroc.md). -/

namespace Sys2Proof.Machine

/-- Table word `k` into the record (R242). -/
def applyRocLtab (o : LenTableOrder) (k : Nat) (hi lo : BitVec 16) (r : Roc) : Roc :=
  match o with
  | .upperFirst => { r with linkLen := (r.linkLen.setIfInBounds (2 * k) hi).setIfInBounds (2 * k + 1) lo }
  | .lowerFirst => { r with linkLen := (r.linkLen.setIfInBounds (2 * k) lo).setIfInBounds (2 * k + 1) hi }

/-- The record after the length word and the table (R240, R242). -/
def rocHead (pr : Params) (ws : List Word) : Roc :=
  let tab (k : Nat) (r : Roc) : Roc :=
    applyRocLtab pr.lenTableOrder k ((wordAt ws (1 + k)).extractLsb' 16 16) ((wordAt ws (1 + k)).extractLsb' 0 16) r
  tab 2 (tab 1 (tab 0 { Roc.zero with totalLen := wordAt ws 0 }))

/-- `link_len[i]` as a number of words (R243). -/
def linkLenOf (r : Roc) (i : Nat) : Nat := (r.linkLen[i]?.getD 0#16).toNat

/-- The loop over the six links from link `i` on, `n` of them (R243 to R245). -/
def rocSlices (pr : Params) (ws : List Word) : (n i off : Nat) → Roc → Acc → Run Roc
  | 0, _, off, r, c => .done { r with endOff := off } c
  | n + 1, i, off, r, c =>
    let len := linkLenOf r i
    if ws.length < off + len then .stop ⟨.lengthError, i⟩ c
    else if i < 2 then
      match daqFrom pr ((ws.drop off).take len) c with
      | .stop e c' => .stop e c'
      | .done d c' => rocSlices pr ws n (i + 1) (off + len) { r with daq := r.daq.setIfInBounds i d } c'
    else
      rocSlices pr ws n (i + 1) (off + len)
        { r with
          trigOff := r.trigOff.setIfInBounds (i - 2) off, trig := r.trig.setIfInBounds (i - 2) Trigf.zero }
        c

/-- `ROC_FROM` on the words of a span (R240 to R248). -/
def rocFrom (pr : Params) (ws : List Word) (c : Acc) : Run Roc :=
  if ws.length = 0 then .stop ⟨.lengthError, 0⟩ c
  else if ws.length ≠ (wordAt ws 0).toNat then .stop ⟨.badLength, ws.length⟩ c
  else if ws.length < 4 then .stop ⟨.lengthError, ws.length⟩ c
  else rocSlices pr ws 6 0 4 (rocHead pr ws) c

/-- `ROC_FROM` (R240). -/
def execRocFrom (s : State) : Result :=
  onSpan .roc 0x1B#6 s fun ws =>
    finish .roc 0x1B#6 s (rocFrom s.params ws s.acc) fun r s' => { s' with roc := r }

/-- A `ROC.LEN` word at the cursor (R241, log 3): the span's length must be the packet's. -/
def execRocLen (total : Word) (s : State) : Result :=
  onWord .roc 0x1B#6 s fun ws s' =>
    if ws.length ≠ total.toNat then .next (abort .roc 0x1B#6 ⟨.badLength, ws.length⟩ s)
    else .next { s' with roc := { s.roc with totalLen := total } }

/-- A `ROC.LTAB` word at the cursor, table word `k` (R242, log 3). -/
def execRocLtab (k : Nat) (hi lo : BitVec 16) (s : State) : Result :=
  onWord .roc 0x1B#6 s fun ws s' =>
    if ws.length < 4 then .next (abort .roc 0x1B#6 ⟨.lengthError, ws.length⟩ s)
    else .next { s' with roc := applyRocLtab s.params.lenTableOrder k hi lo s.roc }

end Sys2Proof.Machine
end

