-- ==== Sys2Proof/Machine/StreamScan.lean ====
section
/-! DEFINITION. The stream reader: marker scan and window (48_stream_scan.md). A marker or a length prefix is a word such
a scan meets; its meaning is the scan with that word met first (log 3). -/

namespace Sys2Proof.Machine

/-! ### The search for a start marker -/

/-- How many words a search consumes up to and with the first adjacent pair `0x11888811`, `0xBEEF2025`, `used` of them
before these; `prev` is the word before (R281, R282). -/
def findRocStart : (prev : Option Word) → (used : Nat) → List Word → Option Nat
  | _, _, [] => none
  | prev, used, w :: ws =>
    if prev = some markRocStart0Word ∧ w = markRocStart1Word then some (used + 1)
    else findRocStart (some w) (used + 1) ws

/-- How many words a search consumes up to and with the first `0xB33F2025` (R286). -/
def findMsStart : (used : Nat) → List Word → Option Nat
  | _, [] => none
  | used, w :: ws => if w = markMsStartWord then some (used + 1) else findMsStart (used + 1) ws

/-- The words of the stream a search looks through: every word and every adjacent pair there is from `STRM_POS` on. -/
def searchWords (s : State) : List Word :=
  s.strm.read s.strmPos (s.strm.horizon s.strmPos)

/-! ### The window -/

/-- `fail E(x)` of R281: `ILEN`, the span and `P` are cleared and the error is raised (R303). -/
def failScan (op : BitVec 6) (e : Raise) (s : State) : State :=
  abort .strm op e s

/-- The stream ended inside a packet: `LengthError(STRM_POS)` (R284, R289). -/
def failAtEnd (op : BitVec 6) (s : State) : Result :=
  .next (failScan op ⟨.lengthError, (meetStreamEnd s).strmPos⟩ (meetStreamEnd s))

/-- The window in `IBUF`, the span set to all of it, `RES = 1` (R281, R286). -/
def openWindow (ws : List Word) (s : State) : State :=
  { s with
    ibuf := Memory.writeWords s.ibuf 0 ws, ilen := ws.length, spanBase := 0, spanLen := ws.length, p := 0,
    res := 1#32 }

/-- `n` more words of the stream after `STRM_POS`, put behind `head` as the window (R283, R288). -/
def takeWindow (op : BitVec 6) (head : List Word) (n : Nat) (s : State) : Result :=
  let ws := s.strm.read s.strmPos n
  if ws.length < n then failAtEnd op s else .next (openWindow (head ++ ws) (consumeWords n s))

/-- The part of `SCAN_ROC` after its start pair (R281, R283, R284). -/
def rocWindow (s : State) : Result :=
  match strmNext s with
  | none => failAtEnd 0x20#6 s
  | some n =>
    if n.toNat = 0 ∨ s.params.maxWindow < n.toNat then
      .next (failScan 0x20#6 ⟨.badLength, n.toNat⟩ (consumeWords 1 s))
    else takeWindow 0x20#6 [n] (n.toNat - 1) (consumeWords 1 s)

/-- The part of `SCAN_MS` after its length prefix `n`, `STRM_POS` past the prefix (R286, R288, R289). -/
def msWindow (n : Word) (s : State) : Result :=
  if s.params.maxWindow < n.toNat then .next (failScan 0x21#6 ⟨.badLength, n.toNat⟩ s)
  else takeWindow 0x21#6 [] n.toNat s

/-- The part of `SCAN_MS` after its start marker (R286, R287). -/
def msPrefixAndWindow (s : State) : Result :=
  match strmNext s with
  | none => failAtEnd 0x21#6 s
  | some n => msWindow n (consumeWords 1 s)

/-! ### The operations -/

/-- No start marker from `STRM_POS` on. On a finite stream the end is met: `RES = 0`, nothing else but the stream port
changes (R281, R284, R286); an infinite stream has no end to meet, and the run is not a transition (R280). -/
def scanFoundNothing (s : State) : Result :=
  if s.strm.cycle = [] then .next { meetStreamEnd s with res := 0#32 } else .fault .endlessScan

/-- The rest of `SCAN_ROC` once its loop is over: `found` is how many words the search consumed up to and with the start
pair (R281). -/
def afterRocSearch (found : Option Nat) (s : State) : Result :=
  match found with
  | none => scanFoundNothing s
  | some used => rocWindow (consumeWords used s)

/-- The rest of `SCAN_MS` once its loop is over (R286). -/
def afterMsSearch (found : Option Nat) (s : State) : Result :=
  match found with
  | none => scanFoundNothing s
  | some used => msPrefixAndWindow (consumeWords used s)

/-- `SCAN_ROC` (R281). -/
def execScanRoc (s : State) : Result :=
  whenIdle s (afterRocSearch (findRocStart none 0 (searchWords s)) s)

/-- `SCAN_MS` (R286). -/
def execScanMs (s : State) : Result :=
  whenIdle s (afterMsSearch (findMsStart 0 (searchWords s)) s)

/-! ### The words a scan meets (log 3) -/

/-- `SCAN_ROC` whose first word met is `w`: consumed, and the `prev` of the next (R281, R282). -/
def scanRocMeets (w : Word) (s : State) : Result :=
  whenIdle s (afterRocSearch (findRocStart (some w) 1 (searchWords s).tail) s)

/-- `SCAN_MS` whose first word met is not its start marker: consumed and dropped (R286). -/
def scanMsDrops (s : State) : Result :=
  whenIdle s (afterMsSearch (findMsStart 1 (searchWords s).tail) s)

/-- `MARK.ROC_START0` (R282): the scan goes on with it as `prev`. -/
def execMarkRocStart0 (s : State) : Result := scanRocMeets markRocStart0Word s

/-- `MARK.ROC_START1` met with nothing before it (R282): no pair ends here, and the scan goes on. -/
def execMarkRocStart1 (s : State) : Result := scanRocMeets markRocStart1Word s

/-- `MARK.ROC_END0` (R285): checked by nothing, consumed as a non-matching word. -/
def execMarkRocEnd0 (s : State) : Result := scanRocMeets markRocEnd0Word s

/-- `MARK.ROC_END1` (R285). -/
def execMarkRocEnd1 (s : State) : Result := scanRocMeets markRocEnd1Word s

/-- `MARK.MS_START` (R286): it ends the search of `SCAN_MS`; the length prefix and the window are read (R287, R288). -/
def execMarkMsStart (s : State) : Result := whenIdle s (afterMsSearch (some 1) s)

/-- `MARK.MS_END` (R285): consumed as a non-matching word, and the scan goes on. -/
def execMarkMsEnd (s : State) : Result := scanMsDrops s

/-- `MS.PREFIX` (R287): `SCAN_MS` finds its start marker and reads `n` as the prefix behind it; the window is read
(R288). -/
def execMsPrefix (n : Word) (s : State) : Result :=
  whenIdle s
    (match findMsStart 0 (searchWords s) with
    | none => scanFoundNothing s
    | some used => msWindow n (consumeWords (used + 1) s))

end Sys2Proof.Machine
end

