-- ==== Sys2Proof/Machine/TrigLink.lean ====
section
/-! DEFINITION. The trigger link frame decoder and the 7-bit sums (43_triggerlink.md). -/

namespace Sys2Proof.Machine

/-- Data word `iBx` into a `TRIGF` record (R160, R162). -/
def applyTrigData (pr : Params) (iBx : Nat) (w : Word) (t : Trigf) : Trigf :=
  { t with
    data := t.data.setIfInBounds iBx w,
    syncBad := t.syncBad.setIfInBounds iBx (syncBadOf pr (w.extractLsb' 28 4)) }

/-- The record `TRIG_FROM` builds from a frame's 5 words (R160). -/
def trigRecord (pr : Params) (ws : List Word) : Trigf :=
  applyTrigData pr 3 (wordAt ws 4)
    (applyTrigData pr 2 (wordAt ws 3)
      (applyTrigData pr 1 (wordAt ws 2)
        (applyTrigData pr 0 (wordAt ws 1) { Trigf.zero with softHeader := wordAt ws 0 })))

/-- Some `sync_bad` flag of the record is set (R160). -/
def anySyncBad (t : Trigf) : Bool :=
  t.syncBad[0] || t.syncBad[1] || t.syncBad[2] || t.syncBad[3]

/-- `TRIG_FROM` on the words of a span (R160, R161). -/
def trigFrom (pr : Params) (ws : List Word) (c : Acc) : Run Trigf :=
  if ws.length ≠ 5 then .stop ⟨.badLength, ws.length⟩ c
  else .done (trigRecord pr ws) { c with log := c.log.setSyncWarn (anySyncBad (trigRecord pr ws)) }

/-- The compressed sum `i_sum` of a data word (R164). -/
def compressedSum (o : TrigSumOrder) (w : Word) (iSum : Nat) : BitVec 7 :=
  match o with
  | .msbFirst => (w >>> (21 - 7 * iSum)).setWidth 7
  | .lsbFirst => (w >>> (7 * iSum)).setWidth 7

/-- `LIN(c)` (R166). -/
def linearise (c : Nat) : Nat :=
  if c < 8 then c else (8 + c % 8) <<< (c / 8 - 1)

/-- The body `TRIG_CSUM` and `TRIG_LSUM` share (R164): the sum of `ARG0 = i_sum`, `ARG1 = i_bx`. -/
def sumOp (op : BitVec 6) (s : State) (f : BitVec 7 → Word) : Result :=
  whenIdle s
    (if 3 < arg0Nat s then .next (abort .res op ⟨.badFormat, arg0Nat s⟩ s)
    else if 3 < arg1Nat s then .next (abort .res op ⟨.badFormat, arg1Nat s⟩ s)
    else
      .next
        { s with
          res := f (compressedSum s.params.trigSumOrder (s.trig.data[arg1Nat s]?.getD 0#32) (arg0Nat s)) })

/-- `TRIG_FROM` (R160). -/
def execTrigFrom (s : State) : Result :=
  onSpan .trig 0x15#6 s fun ws =>
    finish .trig 0x15#6 s (trigFrom s.params ws s.acc) fun t s' => { s' with trig := t }

/-- `TRIG_CSUM i_sum, i_bx` (R164). -/
def execTrigCsum (s : State) : Result :=
  sumOp 0x16#6 s fun c => c.setWidth 32

/-- `TRIG_LSUM i_sum, i_bx` (R167). -/
def execTrigLsum (s : State) : Result :=
  sumOp 0x17#6 s fun c => BitVec.ofNat 32 (linearise c.toNat)

/-- A `TRIG.SOFT` word at the cursor (R160, log 3), stored raw. -/
def execTrigSoft (soft : Word) (s : State) : Result :=
  onWord .trig 0x15#6 s fun _ s' => .next { s' with trig := { s.trig with softHeader := soft } }

/-- A `TRIG.DATA` word at the cursor, the frame's data word `iBx` (R162, log 3). -/
def execTrigData (iBx : Nat) (sync : BitVec 4) (s0 s1 s2 s3 : BitVec 7) (s : State) : Result :=
  onWord .trig 0x15#6 s fun _ s' =>
    .next
      { s' with
        trig := applyTrigData s.params iBx (sync ++ s0 ++ s1 ++ s2 ++ s3) s.trig,
        log := s.log.setSyncWarn (syncBadOf s.params sync) }

end Sys2Proof.Machine
end

