-- ==== Sys2Proof/Machine/Dispatch.lean ====
section
/-! DEFINITION. The meaning of every instruction: one arm per row of spec/opcode_table.json. -/

namespace Sys2Proof.Machine

/-- The meaning of an instruction, one arm per row of the opcode table. -/
def exec (i : Instr) (s : State) : Host.Outcome State Fault Refusal :=
  match i with
  | .sample tc tp a m t => Sys2Proof.Machine.execSample tc tp a m t s
  | .daqHdr lead bx event orbit f6 f5 f4 evt => Sys2Proof.Machine.execDaqHdr lead bx event orbit f6 f5 f4 evt s
  | .daqCm ignored cm0 cm1 => Sys2Proof.Machine.execDaqCm ignored cm0 cm1 s
  | .daqCrc crc => Sys2Proof.Machine.execDaqCrc crc s
  | .trigSoft soft => Sys2Proof.Machine.execTrigSoft soft s
  | .trigData iBx sync s0 s1 s2 s3 => Sys2Proof.Machine.execTrigData iBx sync s0 s1 s2 s3 s
  | .rocLen total => Sys2Proof.Machine.execRocLen total s
  | .rocLtab k hi lo => Sys2Proof.Machine.execRocLtab k hi lo s
  | .econdHdr0 marker length passthrough expected ht ebo m truncated hamming => Sys2Proof.Machine.execEcondHdr0 marker length passthrough expected ht ebo m truncated hamming s
  | .econdHdr1 bx l1a orbit subErr rr crc => Sys2Proof.Machine.execEcondHdr1 bx l1a orbit subErr rr crc s
  | .econdTrl crc => Sys2Proof.Machine.execEcondTrl crc s
  | .erxHdr0 stat ham isEmpty cm0 cm1 chmapHi => Sys2Proof.Machine.execErxHdr0 stat ham isEmpty cm0 cm1 chmapHi s
  | .erxHdr1 chmapLo => Sys2Proof.Machine.execErxHdr1 chmapLo s
  | .zs0000 slot a m => Sys2Proof.Machine.execZs0000 slot a m s
  | .zs0001 slot padBits m => Sys2Proof.Machine.execZs0001 slot padBits m s
  | .zs0010 slot a m => Sys2Proof.Machine.execZs0010 slot a m s
  | .zs0011 slot m t => Sys2Proof.Machine.execZs0011 slot m t s
  | .fp01 slot a m t => Sys2Proof.Machine.execFp01 slot a m t s
  | .fp10 slot a m t => Sys2Proof.Machine.execFp10 slot a m t s
  | .fp11 slot a m t => Sys2Proof.Machine.execFp11 slot a m t s
  | .ptSample slot word => Sys2Proof.Machine.execPtSample slot word s
  | .msHdr flag iSample soi length => Sys2Proof.Machine.execMsHdr flag iSample soi length s
  | .markRocStart0 => Sys2Proof.Machine.execMarkRocStart0 s
  | .markRocStart1 => Sys2Proof.Machine.execMarkRocStart1 s
  | .markRocEnd0 => Sys2Proof.Machine.execMarkRocEnd0 s
  | .markRocEnd1 => Sys2Proof.Machine.execMarkRocEnd1 s
  | .markMsStart => Sys2Proof.Machine.execMarkMsStart s
  | .markMsEnd => Sys2Proof.Machine.execMarkMsEnd s
  | .msPrefix n => Sys2Proof.Machine.execMsPrefix n s
  | .pad => Sys2Proof.Machine.execPad s
  | .crc32 a b => Sys2Proof.Machine.execCrc32 a b s
  | .crc8 => Sys2Proof.Machine.execCrc8 s
  | .raw word => Sys2Proof.Machine.execRaw word s
  | .nop => Sys2Proof.Machine.execNop s
  | .clrFault => Sys2Proof.Machine.execClrFault s
  | .clrLog => Sys2Proof.Machine.execClrLog s
  | .rdBits => Sys2Proof.Machine.execRdBits s
  | .peekBits => Sys2Proof.Machine.execPeekBits s
  | .seekWord => Sys2Proof.Machine.execSeekWord s
  | .seekByte => Sys2Proof.Machine.execSeekByte s
  | .alignWord => Sys2Proof.Machine.execAlignWord s
  | .atEnd => Sys2Proof.Machine.execAtEnd s
  | .setSpan => Sys2Proof.Machine.execSetSpan s
  | .sampleDec => Sys2Proof.Machine.execSampleDec s
  | .sampleEnc => Sys2Proof.Machine.execSampleEnc s
  | .crc32Span => Sys2Proof.Machine.execCrc32Span s
  | .crc8U64 => Sys2Proof.Machine.execCrc8U64 s
  | .daqFrom => Sys2Proof.Machine.execDaqFrom s
  | .trigFrom => Sys2Proof.Machine.execTrigFrom s
  | .trigCsum => Sys2Proof.Machine.execTrigCsum s
  | .trigLsum => Sys2Proof.Machine.execTrigLsum s
  | .erxUnpack => Sys2Proof.Machine.execErxUnpack s
  | .econdFrom => Sys2Proof.Machine.execEcondFrom s
  | .msFrom => Sys2Proof.Machine.execMsFrom s
  | .rocFrom => Sys2Proof.Machine.execRocFrom s
  | .fmtStart => Sys2Proof.Machine.execFmtStart s
  | .fmtAdd => Sys2Proof.Machine.execFmtAdd s
  | .fmtFinish => Sys2Proof.Machine.execFmtFinish s
  | .scanRoc => Sys2Proof.Machine.execScanRoc s
  | .scanMs => Sys2Proof.Machine.execScanMs s

end Sys2Proof.Machine
end

