-- ==== Sys2Proof/Machine/HostPort.lean ====
section
/-! DEFINITION. The host's side: its register writes (R11, R22, R26, R28, R330), the command port (R26, R304, R323),
and the fetch of the bits an instruction is decoded from. -/

namespace Sys2Proof.Machine

/-! ### Host writes -/

/-- A write of `IBUF[i]` (R11). -/
def hostWriteIbuf (i : Nat) (w : Word) (s : State) : Result :=
  if i < s.params.ibufWords then .next { s with ibuf := Memory.writeWord s.ibuf i w } else .fault .noSuchWord

/-- A write of `ILEN` (R11: `0 <= ILEN <= IBUF_WORDS`; log 12). -/
def hostWriteIlen (n : Nat) (s : State) : Result :=
  if n ≤ s.params.ibufWords then .next { s with ilen := n } else .refused .ilenOutOfRange

/-- A write of `CFG_NLINKS`: 0 and values above 12 leave the register unchanged (R28, U13). -/
def hostWriteNlinks (v : BitVec 4) (s : State) : Result :=
  .next (if 1 ≤ v.toNat ∧ v.toNat ≤ 12 then { s with cfgNlinks := v } else s)

/-- The reset input (R330, R30, log 19). -/
def hostReset (s : State) : Result :=
  .next (State.resetWith s.params s.strm s.script s.frame s.draws)

/-! ### The command port -/

/-- The commands that act while a fault is pending (R304). -/
def actsInFault (c : BitVec 6) : Bool := decide (c.toNat ≤ 2)

/-- The number written to `CMD`, unless a pending fault blocks it (R26, R304, log 11). -/
def acceptCommand (c : BitVec 6) (s : State) : State :=
  if s.fault.isSome && !actsInFault c then s else { s with cmd := c }

/-- An unassigned command number (R323): `LOG.bad_cmd`, unless a fault is pending. -/
def badCommand (s : State) : Result :=
  whenIdle s (.next { s with log := s.log.setBadCmd })

/-! ### Fetch -/

/-- The 32 bits at the cursor (R101), zeros after the span's last bit: the meaning of the element raises before it
uses a bit that is not there (R48). -/
def bitsAtCursor (s : State) : Word :=
  if s.ilen < s.spanBase + s.spanLen then 0#32 else bitRead (spanWords s) s.p 32

/-- The length prefix `SCAN_MS` would read: the word after the first start marker from `STRM_POS` on (R287). -/
def prefixAhead (s : State) : Option Word :=
  match findMsStart 0 (searchWords s) with
  | none => none
  | some used => strmNext (consumeWords used s)

/-- The bits an element at a place is decoded from; none where a scan has no such word. -/
def fetchWire (s : State) (pl : Place) : Option Word :=
  match pl with
  | .scan _ => strmNext s
  | .msPrefix => prefixAhead s
  | .pad | .crc32 _ _ | .crc8 | .raw _ => some 0#32
  | .sample | .daqHdr | .daqCm | .daqCrc | .trigSoft | .trigData _ | .rocLen | .rocLtab _ | .econdHdr0 | .econdHdr1
  | .econdTrl | .erxHdr0 | .erxHdr1 | .channel _ | .ptSample _ | .msHdr => some (bitsAtCursor s)

/-- The scan whose words are walked at a place, run where it has no such word: it meets the end of the stream (R281,
R284, R286, R289). -/
def walkAtEnd (pl : Place) (s : State) : Result :=
  match pl with
  | .scan .roc => execScanRoc s
  | .scan .ms | .msPrefix => execScanMs s
  | _ => .next s

/-- What a host action comes to: a host write, done; or a coded instruction to decode and run at a state. -/
inductive Issue where
  | wrote (r : Result)
  | run (c : Coded) (s : State)

/-- The effect of a host action before any instruction runs. -/
def issue (a : HostAction) (s : State) : Issue :=
  match a with
  | .writeIbuf i w => .wrote (hostWriteIbuf i w s)
  | .writeIlen n => .wrote (hostWriteIlen n s)
  | .writeArg0 v => .wrote (.next { s with arg0 := v })
  | .writeArg1 v => .wrote (.next { s with arg1 := v })
  | .writeArg2 v => .wrote (.next { s with arg2 := v })
  | .writeArg3 v => .wrote (.next { s with arg3 := v })
  | .writeNlinks v => .wrote (hostWriteNlinks v s)
  | .writeZsEn b => .wrote (.next { s with cfgZsEn := b })
  | .writeCmd c => .run (.cmd c) (acceptCommand c s)
  | .walk pl =>
    match fetchWire s pl with
    | some w => .run (.wire pl w) s
    | none => .wrote (walkAtEnd pl s)
  | .frameNew => .wrote (hostFrameNew s)
  | .frameBits n v => .wrote (hostFrameBits n v s)
  | .frameLoad => .wrote (hostFrameLoad s)
  | .reset => .wrote (hostReset s)

/-- What the machine does with a coded form the decoder rejects; a stream word that is no marker is one the scan it is
met by drops (R282). -/
def rejected (d : Decoded) (s : State) : Result :=
  match d with
  | .instr _ => .next s
  | .unassignedCommand _ => badCommand s
  | .notAMarker .roc w => scanRocMeets w s
  | .notAMarker .ms _ => scanMsDrops s
  | .noSuchPlace _ => .refused .noSuchPlace

end Sys2Proof.Machine
end

