-- ==== Sys2Proof/Machine/Step.lean ====
section
/-! DEFINITION. One step: the host's next action, and the instruction it issues, run to completion as one atomic
transition (R50). With no action left the block is idle and keeps all state (R316, R331). -/

namespace Sys2Proof.Machine

/-- A coded form decoded and run. -/
def runCoded (c : Coded) (s : State) : Host.Outcome State Fault Refusal :=
  match decode s.params c with
  | .instr i => exec i s
  | d => rejected d s

/-- One step of the machine. -/
def step (s : State) : Host.Outcome State Fault Refusal :=
  match s.script with
  | [] => .next s
  | a :: rest =>
    match issue a { s with script := rest } with
    | .wrote r => r
    | .run c s' => runCoded c s'

/-- The state with the instruction a table word codes placed where the next step fetches it: a command number as the
host's next write to `CMD`; a stream word as the stream's next word, a length prefix behind its start marker; any other
element as the first word of `IBUF`, the span that word and the cursor at its start; and, but for a command, the walk
that parses it as the host's next action. A word that is no coded form changes nothing. -/
def State.withFetchWord (s : State) (nbits w : Nat) : State :=
  match tableCoded nbits w with
  | none => s
  | some (.cmd c) => { s with script := .writeCmd c :: s.script }
  | some (.wire pl v) =>
    match pl with
    | .scan _ => { s with strm := ⟨[v], []⟩, strmPos := 0, script := .walk pl :: s.script }
    | .msPrefix => { s with strm := ⟨[markMsStartWord, v], []⟩, strmPos := 0, script := .walk pl :: s.script }
    | .pad | .crc32 _ _ | .crc8 | .raw _ => { s with script := .walk pl :: s.script }
    | _ =>
      { s with
        ibuf := Memory.writeWord s.ibuf 0 v, ilen := 1, spanBase := 0, spanLen := 1, p := 0,
        script := .walk pl :: s.script }

end Sys2Proof.Machine
end

