-- ==== Sys2Proof/Safety.lean ====
section
/-! DEFINITION. The vocabulary claims are stated in: the span and the buffers read byte by byte, when an operation is
ready to run, what a taken structural error looks like, what it leaves unchanged, the layouts of records, tables and
samples written out a second time from the rules, and the machine's invariant. -/

namespace Sys2Proof

/-- The unassigned command numbers (R323). -/
abbrev Unassigned (c : BitVec 6) : Prop :=
  c = 0x03#6 ∨ (0x0B#6 ≤ c ∧ c ≤ 0x0F#6) ∨ c = 0x1F#6 ∨ 0x22#6 ≤ c

/-- The element at the place is a whole 32-bit word (R60): not a channel record, not a pseudo-element. -/
def Place.wholeWord : Place → Bool
  | .channel _ | .pad | .crc32 _ _ | .crc8 | .raw _ => false
  | .sample | .daqHdr | .daqCm | .daqCrc | .trigSoft | .trigData _ | .rocLen | .rocLtab _ | .econdHdr0 | .econdHdr1
  | .econdTrl | .erxHdr0 | .erxHdr1 | .ptSample _ | .msHdr | .scan _ | .msPrefix => true

/-- The element at the place is read at the bit cursor. -/
def Place.atCursor : Place → Bool
  | .scan _ | .msPrefix | .pad | .crc32 _ _ | .crc8 | .raw _ => false
  | .sample | .daqHdr | .daqCm | .daqCrc | .trigSoft | .trigData _ | .rocLen | .rocLtab _ | .econdHdr0 | .econdHdr1
  | .econdTrl | .erxHdr0 | .erxHdr1 | .channel _ | .ptSample _ | .msHdr => true

end Sys2Proof

namespace Sys2Proof.Machine

/-! ### Reading the buffers -/

/-- Word `i` of the current span (R12), read from `IBUF`. -/
def spanWord (s : State) (i : Nat) : Word :=
  Memory.readWord s.ibuf (s.spanBase + i)

/-- Bit position `q` of the current span (R41, R42): bit `7 - q mod 8` of byte `q div 8`. -/
def spanBit (s : State) (q : Nat) : Bool :=
  (Memory.readByte s.ibuf (4 * s.spanBase + q / 8)).getLsbD (7 - q % 8)

/-- Bit position `q` of a buffer written bit by bit (`OBUF`, the host's frame), the same way. -/
def bufBit (m : Memory) (q : Nat) : Bool :=
  (Memory.readByte m (q / 8)).getLsbD (7 - q % 8)

/-- Two buffers read the same at every address outside `lo .. lo + n - 1`. -/
def sameBytesOutside (lo n : Nat) (m m' : Memory) : Prop :=
  ∀ a, (a < lo ∨ lo + n ≤ a) → Memory.readByte m' a = Memory.readByte m a

/-! ### When an operation is ready -/

/-- No fault is pending (R304). -/
abbrev Idle (s : State) : Prop := s.fault = none

/-- No fault is pending and the span lies within `ILEN` (R12, R304, R336). -/
abbrev Ready (s : State) : Prop := s.fault = none ∧ s.spanBase + s.spanLen ≤ s.ilen

/-- The next whole word of the span stands at the cursor. -/
abbrev WordAhead (s : State) : Prop := Ready s ∧ s.p + 32 ≤ 32 * s.spanLen

/-! ### Structural errors -/

/-- The fault registers of an error of kind `k` with number `info`, raised in operation `op` (R303). -/
abbrev Faulted (t : State) (k : FaultKind) (info : Nat) (op : BitVec 6) : Prop :=
  t.fault = some k ∧ t.faultInfo = BitVec.ofNat 32 info ∧ t.faultOp = op

/-- The destination of each host operation's result, for what its fault leaves unspecified (R303). A wire element has
the destination of the operation that parses it. -/
def destOf : Instr → Dest
  | .rdBits | .peekBits | .sample .. => .resOnly
  | .seekWord | .seekByte | .setSpan => .nothing
  | .trigCsum | .trigLsum => .res
  | .crc32Span => .crcr
  | .daqFrom | .daqHdr .. | .daqCm .. | .daqCrc .. => .daq
  | .trigFrom | .trigSoft .. | .trigData .. => .trig
  | .rocFrom | .rocLen .. | .rocLtab .. => .roc
  | .erxUnpack | .erxHdr0 .. | .erxHdr1 .. | .ptSample .. | .zs0000 .. | .zs0001 .. | .zs0010 .. | .zs0011 ..
  | .fp01 .. | .fp10 .. | .fp11 .. => .erx
  | .econdFrom | .econdHdr0 .. | .econdHdr1 .. | .econdTrl .. => .econd
  | .msFrom | .msHdr .. => .ms
  | .fmtStart | .fmtAdd | .fmtFinish => .fmt
  | .scanRoc | .scanMs | .markRocStart0 | .markRocStart1 | .markRocEnd0 | .markRocEnd1 | .markMsStart | .markMsEnd
  | .msPrefix .. => .strm
  | .nop | .clrFault | .clrLog | .alignWord | .atEnd | .sampleDec | .sampleEnc | .crc8U64 | .pad | .crc32 .. | .crc8
  | .raw .. => .nothing

/-- The instruction is a pseudo-element of the frame notation (R89), which is no operation of the block (log 17). -/
def isPseudo : Instr → Bool
  | .pad | .crc32 .. | .crc8 | .raw .. => true
  | .sample .. | .daqHdr .. | .daqCm .. | .daqCrc .. | .trigSoft .. | .trigData .. | .rocLen .. | .rocLtab ..
  | .econdHdr0 .. | .econdHdr1 .. | .econdTrl .. | .erxHdr0 .. | .erxHdr1 .. | .zs0000 .. | .zs0001 .. | .zs0010 ..
  | .zs0011 .. | .fp01 .. | .fp10 .. | .fp11 .. | .ptSample .. | .msHdr .. | .markRocStart0 | .markRocStart1
  | .markRocEnd0 | .markRocEnd1 | .markMsStart | .markMsEnd | .msPrefix .. | .nop | .clrFault | .clrLog | .rdBits
  | .peekBits | .seekWord | .seekByte | .alignWord | .atEnd | .setSpan | .sampleDec | .sampleEnc | .crc32Span
  | .crc8U64 | .daqFrom | .trigFrom | .trigCsum | .trigLsum | .erxUnpack | .econdFrom | .msFrom | .rocFrom
  | .fmtStart | .fmtAdd | .fmtFinish | .scanRoc | .scanMs => false

/-- The instruction moves the bit cursor `P` when it completes: the cursor operations that move it (R102, R105 to R107,
R109), `ERX_UNPACK` (R198), the two scans (R281, R286) and, as the model walks them (log 3), the wire elements. -/
def movesCursor : Instr → Bool
  | .rdBits | .seekWord | .seekByte | .alignWord | .setSpan | .erxUnpack | .scanRoc | .scanMs | .sample .. | .daqHdr ..
  | .daqCm .. | .daqCrc .. | .trigSoft .. | .trigData .. | .rocLen .. | .rocLtab .. | .econdHdr0 .. | .econdHdr1 ..
  | .econdTrl .. | .erxHdr0 .. | .erxHdr1 .. | .zs0000 .. | .zs0001 .. | .zs0010 .. | .zs0011 .. | .fp01 .. | .fp10 ..
  | .fp11 .. | .ptSample .. | .msHdr .. | .markRocStart0 | .markRocStart1 | .markRocEnd0 | .markRocEnd1 | .markMsStart
  | .markMsEnd | .msPrefix .. => true
  | .nop | .clrFault | .clrLog | .peekBits | .atEnd | .sampleDec | .sampleEnc | .crc32Span | .crc8U64 | .daqFrom
  | .trigFrom | .trigCsum | .trigLsum | .econdFrom | .msFrom | .rocFrom | .fmtStart | .fmtAdd | .fmtFinish | .pad
  | .crc32 .. | .crc8 | .raw .. => false

/-- The `LOG` bits an instruction may set (R25): `invalid_code` where a channel record is decoded (R192), `sync_warn`
where a trigger data word is (R160), `hdr_warn` where a DAQ header or an ECON-D packet's checks are (R135, R212). No
instruction sets `bad_cmd`, which is an unassigned number's (R323), or `code_err` (R193). -/
def logBitsOf : Instr → Log
  | .erxUnpack | .fp10 .. => { Log.zero with invalidCode := true }
  | .trigFrom | .trigData .. => { Log.zero with syncWarn := true }
  | .daqFrom | .rocFrom | .daqHdr .. | .econdHdr1 .. | .econdTrl .. => { Log.zero with hdrWarn := true }
  | .econdFrom | .msFrom | .msHdr .. => { Log.zero with invalidCode := true, hdrWarn := true }
  | .sample .. | .daqCm .. | .daqCrc .. | .trigSoft .. | .rocLen .. | .rocLtab .. | .econdHdr0 .. | .erxHdr0 ..
  | .erxHdr1 .. | .zs0000 .. | .zs0001 .. | .zs0010 .. | .zs0011 .. | .fp01 .. | .fp11 .. | .ptSample ..
  | .markRocStart0 | .markRocStart1 | .markRocEnd0 | .markRocEnd1 | .markMsStart | .markMsEnd | .msPrefix .. | .pad
  | .crc32 .. | .crc8 | .raw .. | .nop | .clrFault | .clrLog | .rdBits | .peekBits | .seekWord | .seekByte
  | .alignWord | .atEnd | .setSpan | .sampleDec | .sampleEnc | .crc32Span | .crc8U64 | .trigCsum | .trigLsum
  | .fmtStart | .fmtAdd | .fmtFinish | .scanRoc | .scanMs => Log.zero

/-- The number `FAULT_OP` takes (R27): a host operation's own number; for a wire element, that of the operation that
parses it (log 3). A pseudo-element raises nothing (log 17). -/
def faultNumber : Instr → BitVec 6
  | .nop | .pad | .crc32 .. | .crc8 | .raw .. => 0x00#6
  | .clrFault => 0x01#6
  | .clrLog => 0x02#6
  | .rdBits | .sample .. => 0x04#6
  | .peekBits => 0x05#6
  | .seekWord => 0x06#6
  | .seekByte => 0x07#6
  | .alignWord => 0x08#6
  | .atEnd => 0x09#6
  | .setSpan => 0x0A#6
  | .sampleDec => 0x10#6
  | .sampleEnc => 0x11#6
  | .crc32Span => 0x12#6
  | .crc8U64 => 0x13#6
  | .daqFrom | .daqHdr .. | .daqCm .. | .daqCrc .. => 0x14#6
  | .trigFrom | .trigSoft .. | .trigData .. => 0x15#6
  | .trigCsum => 0x16#6
  | .trigLsum => 0x17#6
  | .erxUnpack | .erxHdr0 .. | .erxHdr1 .. | .ptSample .. | .zs0000 .. | .zs0001 .. | .zs0010 .. | .zs0011 ..
  | .fp01 .. | .fp10 .. | .fp11 .. => 0x18#6
  | .econdFrom | .econdHdr0 .. | .econdHdr1 .. | .econdTrl .. => 0x19#6
  | .msFrom | .msHdr .. => 0x1A#6
  | .rocFrom | .rocLen .. | .rocLtab .. => 0x1B#6
  | .fmtStart => 0x1C#6
  | .fmtAdd => 0x1D#6
  | .fmtFinish => 0x1E#6
  | .scanRoc | .markRocStart0 | .markRocStart1 | .markRocEnd0 | .markRocEnd1 => 0x20#6
  | .scanMs | .markMsStart | .markMsEnd | .msPrefix .. => 0x21#6

/-- What a fault with destination `dst` leaves as it was (R303): every other record, the cursor and the span where
R303 says so, the buffers, the registers the host writes, `CRCR.crc8`, `SAMP` and `FMT_NLINKS`. -/
structure FaultFrame (dst : Dest) (s t : State) : Prop where
  samp : t.samp = s.samp
  daq : dst ≠ .daq → t.daq = s.daq
  trig : dst ≠ .trig → t.trig = s.trig
  roc : dst ≠ .roc → t.roc = s.roc
  erx : dst ≠ .erx → t.erx = s.erx ∧ t.erxConsumed = s.erxConsumed
  econd : dst ≠ .econd → t.econd = s.econd
  ms : dst ≠ .ms → t.ms = s.ms
  res : dst ≠ .res → dst ≠ .resOnly → dst ≠ .strm → t.res = s.res
  crc32 : dst ≠ .crcr → t.crc32 = s.crc32
  crc8 : t.crc8 = s.crc8
  formatter : dst ≠ .fmt → t.obuf = s.obuf ∧ t.olen = s.olen ∧ t.op = s.op ∧ t.fmtOpen = s.fmtOpen
  formatterCloses : dst = .fmt → t.fmtOpen = false
  nlinks : t.fmtNlinks = s.fmtNlinks
  input : dst ≠ .strm →
    t.ibuf = s.ibuf ∧ t.ilen = s.ilen ∧ t.spanBase = s.spanBase ∧ t.spanLen = s.spanLen
      ∧ t.strmPos = s.strmPos ∧ t.strmEof = s.strmEof
  streamClears : dst = .strm → t.ilen = 0 ∧ t.spanBase = 0 ∧ t.spanLen = 0 ∧ t.p = 0
  cursor : dst = .nothing ∨ dst = .resOnly → t.p = s.p
  registers : t.cmd = s.cmd ∧ t.arg0 = s.arg0 ∧ t.arg1 = s.arg1 ∧ t.arg2 = s.arg2 ∧ t.arg3 = s.arg3
    ∧ t.cfgNlinks = s.cfgNlinks ∧ t.cfgZsEn = s.cfgZsEn
  environment : t.params = s.params ∧ t.strm = s.strm ∧ t.script = s.script ∧ t.frame = s.frame

/-- The instruction takes the structural error of kind `k` with number `info`: its step is the entry R303 describes. -/
def TakesError (i : Instr) (s : State) (k : FaultKind) (info : Nat) : Prop :=
  ∃ t, exec i s = .next t ∧ Faulted t k info (faultNumber i) ∧ FaultFrame (destOf i) s t

/-- The `LOG` bits set in either. -/
def Log.join (l l' : Log) : Log where
  invalidCode := l.invalidCode || l'.invalidCode
  codeErr := l.codeErr || l'.codeErr
  syncWarn := l.syncWarn || l'.syncWarn
  badCmd := l.badCmd || l'.badCmd
  hdrWarn := l.hdrWarn || l'.hdrWarn

/-- Every `LOG` bit of `l` is still set in `l'` (R25: sticky). -/
def Log.keptIn (l l' : Log) : Bool :=
  (!l.invalidCode || l'.invalidCode) && (!l.codeErr || l'.codeErr) && (!l.syncWarn || l'.syncWarn)
    && (!l.badCmd || l'.badCmd) && (!l.hdrWarn || l'.hdrWarn)

/-! ### Sub-spans -/

/-- The state with another current span, the cursor at its start (R109). -/
def withSpan (base len : Nat) (s : State) : State := { s with spanBase := base, spanLen := len, p := 0 }

/-- The state with words written to `IBUF` from index 0 and the span set to all of them (R333). -/
def loadSpan (ws : List Word) (s : State) : State :=
  { s with
    ibuf := Memory.writeWords s.ibuf 0 ws, ilen := ws.length, spanBase := 0, spanLen := ws.length, p := 0 }

/-- The state in which `ERX_UNPACK` unpacks the sub-packet at word `off` of the packet in the span, in its mode (R221):
the rest of the span, the cursor at its start. -/
def atLink (off : Nat) (passthrough : Bool) (s : State) : State :=
  { withSpan (s.spanBase + off) (s.spanLen - off) s with arg0 := if passthrough then 1#32 else 0#32 }

/-! ### Sub-packets, written out from R75 to R82 -/

/-- Length and sample word of the channel record at bit position `q`. -/
def recordSpec (ws : List Word) (q : Nat) : Nat × Word :=
  let f (o : Nat) : BitVec 10 := bitRead ws (q + o) 10
  match bitAt ws q, bitAt ws (q + 1), bitAt ws (q + 2), bitAt ws (q + 3) with
  | false, false, false, false => (24, sampleWord false false (f 4) (f 14) 0#10)
  | false, false, false, true => (16, sampleWord false false 0#10 (f 6) 0#10)
  | false, false, true, false => (24, sampleWord false true (f 4) (f 14) 0#10)
  | false, false, true, true => (24, sampleWord false false 0#10 (f 4) (f 14))
  | false, true, _, _ => (32, sampleWord false false (f 2) (f 12) (f 22))
  | true, false, _, _ => (32, sampleWord true false (f 2) (f 12) (f 22))
  | true, true, _, _ => (32, sampleWord true true (f 2) (f 12) (f 22))

/-- Bits of the code that starts the record at bit position `q` (R75). -/
def codeSpec (ws : List Word) (q : Nat) : Nat := if bitAt ws q || bitAt ws (q + 1) then 2 else 4

/-- The presence bitmap of the sub-packet at the span's start (R178). -/
def chmapOf (s : State) : BitVec 37 := (spanWord s 0).extractLsb' 0 5 ++ spanWord s 1

/-- Bit position at which slot `k`'s record starts, or would start (R75, R189). -/
def slotPos (s : State) : Nat → Nat
  | 0 => 64
  | k + 1 =>
    slotPos s k
      + if present s.params.chmapOrder (chmapOf s) k then (recordSpec (spanWords s) (slotPos s k)).1 else 0

/-- A code of a link record is the known invalid one (R187, R192). -/
def hasInvalidCode (d : Link) : Bool := d.code.toList.any fun c => c.extractLsb' 2 2 == 0b10#2

/-- The header fields of a sub-packet's first word (R176), with everything the operation does not derive from the
sub-packet 0 (R197). -/
def ErxHeaderOf (d : Link) (w : Word) : Prop :=
  d.stat = w.extractLsb' 29 3 ∧ d.ham = w.extractLsb' 26 3 ∧ d.isEmpty = w.getLsbD 25
    ∧ d.adcCm0 = w.extractLsb' 15 10 ∧ d.adcCm1 = w.extractLsb' 5 10
    ∧ d.bx = 0#12 ∧ d.event = 0#6 ∧ d.orbit = 0#3 ∧ d.corruption = Vector.replicate 6 false ∧ d.evtFlag = 0#4
    ∧ d.firstEvent = false ∧ d.crcWord = 0#32

/-! ### Event packets -/

/-- The fields of the two header words (R210, R211). -/
def EcondHeaderOf (e : Econd) (w0 w1 : Word) : Prop :=
  e.marker = w0.extractLsb' 23 9 ∧ e.length = w0.extractLsb' 14 9 ∧ e.passthrough = w0.getLsbD 13
    ∧ e.expected = w0.getLsbD 12 ∧ e.ht = w0.extractLsb' 10 2 ∧ e.ebo = w0.extractLsb' 8 2 ∧ e.m = w0.getLsbD 7
    ∧ e.truncated = w0.getLsbD 6 ∧ e.hamming = w0.extractLsb' 0 6
    ∧ e.bx = w1.extractLsb' 20 12 ∧ e.l1a = w1.extractLsb' 14 6 ∧ e.orbit = w1.extractLsb' 11 3
    ∧ e.subpacketError = w1.getLsbD 10 ∧ e.rr = w1.extractLsb' 8 2 ∧ e.crc8 = w1.extractLsb' 0 8

/-- What `ECOND_FROM` leaves of a packet that is not truncated (R212, R220 to R226): the header, each link as
`ERX_UNPACK` unpacks it from the rest of the span and stamped, the trailer and both checks; nothing else changes but
`LOG` and the count of free values. -/
def EcondDecoded (s t : State) : Prop :=
  ∃ off : Nat → Nat,
    t = { s with econd := t.econd, log := t.log, draws := t.draws }
      ∧ EcondHeaderOf t.econd (spanWord s 0) (spanWord s 1)
      ∧ t.econd.corruption[2]
          = decide (headerCrc8 s.params (spanWord s 0) (spanWord s 1) ≠ (spanWord s 1).extractLsb' 0 8)
      ∧ t.econd.links.length = s.cfgNlinks.toNat
      ∧ off 0 = 2
      ∧ (∀ i, i < s.cfgNlinks.toNat →
          ∃ u,
            exec .erxUnpack (atLink (off i) t.econd.passthrough s) = .next u
              ∧ u.fault = none
              ∧ off (i + 1) = off i + u.erxConsumed
              ∧ t.econd.links[i]?
                  = some { u.erx with bx := t.econd.bx, event := t.econd.l1a, orbit := t.econd.orbit })
      ∧ t.econd.trailer = spanWord s (off s.cfgNlinks.toNat)
      ∧ t.econd.corruption[3]
          = decide
              (crc32Of ((List.range (off s.cfgNlinks.toNat - 2)).map fun k => spanWord s (2 + k)) ≠ t.econd.trailer)
      ∧ t.econd.nwords = off s.cfgNlinks.toNat + 1
      ∧ t.log
          = { s.log with
              hdrWarn := s.log.hdrWarn || (t.econd.corruption[2] || t.econd.corruption[3]),
              invalidCode := s.log.invalidCode || t.econd.links.any hasInvalidCode }

/-- `length` of the per-sample header at word `off` of the span (R230). -/
def msLength (s : State) (off : Nat) : Nat := (s.params.msLayout.length.get (spanWord s off) 16).toNat

/-- `soi` of the per-sample header at word `off` of the span (R230). -/
def msSoi (s : State) (off : Nat) : Bool := (s.params.msLayout.soi.get (spanWord s off) 1).getLsbD 0

/-- The packet of `len` words from word `off` of the span on can be decoded whatever its sub-packets hold: truncated and
of at least its two header words, or with 39 words a link and one for the trailer (R190, R212, R219). -/
abbrev PacketFits (s : State) (off len : Nat) : Prop :=
  off + len ≤ s.spanLen
    ∧ ((spanWord s off).getLsbD 6 = true ∧ 2 ≤ len
        ∨ (spanWord s off).getLsbD 6 = false ∧ 2 + 39 * s.cfgNlinks.toNat + 1 ≤ len)

/-! ### Single-ROC packets -/

/-- `link_len[i]` in the table of the packet at the span's start (R242). -/
def tableLen (s : State) (i : Nat) : Nat :=
  let w := spanWord s (1 + i / 2)
  if (i % 2 == 0) == (s.params.lenTableOrder == .upperFirst) then (w.extractLsb' 16 16).toNat
  else (w.extractLsb' 0 16).toNat

/-- Word offset at which slice `i` starts (R243). -/
def tableOff (s : State) : Nat → Nat
  | 0 => 4
  | i + 1 => tableOff s i + tableLen s i

/-! ### The formatter -/

/-- `canon(w)`: what the decoder gives back for source word `w` (R261). -/
def canon (zsEn : Bool) (w : Word) : Word :=
  if w.getLsbD 31 then w
  else if w.getLsbD 30 then w &&& 0xFFFFFC00#32
  else if w.extractLsb' 0 10 = 0#10 ∧ zsEn = true then w &&& 0x000FFC00#32
  else w

/-- Bits of the record the formatter writes for source word `w` (R260, R262). -/
def zsBits (zsEn : Bool) (w : Word) : Nat :=
  if w.getLsbD 31 then 32
  else if w.getLsbD 30 then 24
  else if w.extractLsb' 0 10 = 0#10 ∧ zsEn = true then 16
  else 32

/-- Bits of a formatted sub-packet before its padding, for the source frame in the span (R262). -/
def formattedBits (s : State) : Nat :=
  64 + ((List.range 37).map fun k => zsBits s.cfgZsEn (spanWord s (2 + k))).sum

/-- `FMT_ADD` for each source frame in turn, loaded as the span, from link number `k` on (R341). -/
def AddLinks : List (List Word) → Nat → State → State → Prop
  | [], _, s, t => t = s
  | ws :: rest, k, s, t =>
    ∃ u, exec .fmtAdd { loadSpan ws s with arg0 := BitVec.ofNat 32 k } = .next u ∧ u.fault = none
      ∧ AddLinks rest (k + 1) u t

/-- A formatter with a packet open at a word boundary, its buffer in canonical form (R24, R258). -/
abbrev FmtReady (s : State) : Prop :=
  s.fmtOpen = true ∧ Memory.wf s.obuf = true ∧ s.op % 32 = 0 ∧ s.olen = ceilWords s.op ∧ 64 ≤ s.op

/-- Buffer `m` is the frame with word `w` appended: its bits behind the write cursor, every bit before it and every later
word as it was. -/
def AppendsWord (s : State) (w : Word) (m : Memory) : Prop :=
  Memory.wf m = true
    ∧ (∀ k, k < 32 → bufBit m (s.frame.op + k) = w.getLsbD (31 - k))
    ∧ (∀ q, q < s.frame.op → bufBit m q = bufBit s.frame.mem q)
    ∧ ∀ a, 4 * ((s.frame.op + 63) / 32) ≤ a → Memory.readByte m a = Memory.readByte s.frame.mem a

/-! ### The stream -/

/-- The pair of start markers stands at words `j`, `j + 1` after the stream's position (R282). -/
abbrev RocStartAt (s : State) (j : Nat) : Prop :=
  s.strm.word (s.strmPos + j) = some 0x11888811#32 ∧ s.strm.word (s.strmPos + j + 1) = some 0xBEEF2025#32

/-- The multi-sample start word stands at word `j` after the stream's position (R286). -/
abbrev MsStartAt (s : State) (j : Nat) : Prop := s.strm.word (s.strmPos + j) = some 0xB33F2025#32

/-- The stream's next words, not yet consumed, are `ws`; more may follow them. -/
abbrev StreamAhead (s : State) (ws : List Word) : Prop :=
  ∀ j w, ws[j]? = some w → s.strm.word (s.strmPos + j) = some w

/-- The markers `SCAN_ROC` may meet and their words (R85). -/
def rocMarkers : List (Instr × Word) :=
  [(.markRocStart0, 0x11888811#32), (.markRocStart1, 0xBEEF2025#32), (.markRocEnd0, 0xD07E2025#32),
   (.markRocEnd1, 0x12345678#32)]

/-- The markers `SCAN_MS` may meet and their words (R85). -/
def msMarkers : List (Instr × Word) := [(.markMsStart, 0xB33F2025#32), (.markMsEnd, 0x12345678#32)]

/-- The window a scan leaves (R281, R286): `ws` in `IBUF`, the span all of it, `RES = 1`, `n` words of the stream
consumed; every other byte of `IBUF` and all else as it was. -/
def OpensWindow (i : Instr) (s : State) (ws : List Word) (n : Nat) : Prop :=
  ∃ m, exec i s
        = .next
            { s with
              ibuf := m, ilen := ws.length, spanBase := 0, spanLen := ws.length, p := 0, res := 1#32,
              strmPos := s.strmPos + n }
    ∧ Memory.wf m = true
    ∧ (∀ k w, ws[k]? = some w → Memory.readWord m k = w)
    ∧ ∀ a, 4 * ws.length ≤ a → Memory.readByte m a = Memory.readByte s.ibuf a

/-! ### The invariant -/

/-- What holds in every state: the buffers in canonical form; the cursors within their buffers (R12, R24); `ILEN`
within `IBUF` (R11); `CFG_NLINKS` legal (R28); no fault number without a fault (R27); `LOG.code_err` 0 (R193); the
sample count within its bound (R20); the position of a finite stream within it (R29); legal parameters (R4). -/
structure State.Inv (s : State) : Prop where
  params : s.params.wf = true
  ibuf : Memory.wf s.ibuf = true
  obuf : Memory.wf s.obuf = true
  cursor : s.p ≤ 32 * s.spanLen
  ilen : s.ilen ≤ s.params.ibufWords
  writeCursor : s.op ≤ 32 * s.params.obufWords
  olen : s.olen = ceilWords s.op
  nlinks : 1 ≤ s.cfgNlinks.toNat ∧ s.cfgNlinks.toNat ≤ 12
  faultClear : s.fault = none → s.faultInfo = 0#32 ∧ s.faultOp = 0#6
  codeErr : s.log.codeErr = false
  samples : s.ms.nSamples ≤ s.params.maxSamples
  strmPos : s.strm.cycle = [] → s.strmPos ≤ s.strm.words.length
  frame : Memory.wf s.frame.mem = true

/-- A run is safe when it never stops: structural errors are taken, not stops. -/
def neverStops (r : Host.Outcome State Fault Refusal) : Bool :=
  match r with
  | .next _ => true
  | .fault _ => false
  | .refused _ => false

end Sys2Proof.Machine
end

