-- ==== Sys2Proof/Certificates/Slice0/Obligations.lean ====
section
/-! DEFINITION. The statements for the provers. Each docstring names the rules of spec/ it formalises, and the entries of
the assumption log it rests on where it says what the model chose. -/

open Sys2Proof Sys2Proof.Machine

/-! ### Coded instructions -/

/-- Decoding the coded form of a well-formed instruction gives the instruction back, for every instruction and every
legal `MS_LAYOUT` (R62 to R85, R89, R90). -/
def Obligations.DecodeOfEncode : Prop :=
  ∀ (p : Params) (i : Instr), p.msLayout.wf = true → i.wellFormed = true → decode p (encode p i) = .instr i

/-- Encoding what the decoder read from a place gives back every bit it was read from, and what it read is well-formed.
A channel record gives back the bits of its length, left-aligned (R75). -/
def Obligations.EncodeOfDecode : Prop :=
  ∀ (p : Params) (pl : Place) (w : Word) (i : Instr), p.msLayout.wf = true → decode p (.wire pl w) = .instr i →
    i.wellFormed = true
      ∧ (pl.wholeWord = true → encode p i = .wire pl w)
      ∧ ∀ slot, pl = .channel slot →
          ∃ v, encode p i = .wire pl v
            ∧ v >>> (32 - (recordSpec [w] 0).1) = w >>> (32 - (recordSpec [w] 0).1)
            ∧ v <<< (recordSpec [w] 0).1 = 0#32

/-- The spec's own example words decode to the elements it reads in them (R63, R64, R70, R71, R73, R83, R84, R85, R182 to
R188). -/
def Obligations.SpecWordsDecode : Prop :=
  decode Params.default (.wire .daqHdr 0xF00C26A5#32)
      = .instr (.daqHdr 0xF#4 12#12 9#6 5#3 false true false 0b0101#4)
    ∧ decode Params.default (.wire .daqCm 0x00022802#32) = .instr (.daqCm 0#12 138#10 2#10)
    ∧ decode Params.default (.wire (.trigData 0) 0xA0A2207F#32) = .instr (.trigData 0 0b1010#4 5#7 8#7 64#7 127#7)
    ∧ decode Params.default (.wire (.rocLtab 0) 0x00280028#32) = .instr (.rocLtab 0 40#16 40#16)
    ∧ decode Params.default (.wire .econdHdr0 0xAA02C000#32)
      = .instr (.econdHdr0 340#9 11#9 false false 0#2 0#2 false false 0#6)
    ∧ decode Params.default (.wire .econdHdr1 0x0750A82F#32) = .instr (.econdHdr1 117#12 2#6 5#3 false 0#2 0x2F#8)
    ∧ decode Params.default (.wire .erxHdr0 0xE2450040#32) = .instr (.erxHdr0 7#3 0#3 true 138#10 2#10 0#5)
    ∧ decode Params.default (.wire .msHdr 0x1003000D#32) = .instr (.msHdr 1#4 1#11 true 13#16)
    ∧ decode Params.default (.wire (.channel 0) 0x11550000#32) = .instr (.zs0001 0 0#2 341#10)
    ∧ decode Params.default (.wire (.channel 4) 0x40100803#32) = .instr (.fp01 4 1#10 2#10 3#10)
    ∧ decode Params.default (.wire (.channel 36) 0xEAA554F0#32) = .instr (.fp11 36 682#10 341#10 240#10)
    ∧ decode Params.default (.wire .sample 0x12345678#32) = .instr (.sample false false 291#10 277#10 632#10)
    ∧ decode Params.default (.wire (.scan .ms) 0xB33F2025#32) = .instr .markMsStart

/-! ### Steps -/

/-- A host write of an assigned number to `CMD` runs that operation (R26). The model's choice of what `CMD` holds after it
is log 11: the number, unless a pending fault blocks it (R304). -/
def Obligations.StepRunsCommand : Prop :=
  ∀ (s : State) (c : BitVec 6) (rest : List HostAction) (i : Instr),
    s.script = .writeCmd c :: rest → decode s.params (.cmd c) = .instr i →
      step s = exec i { s with script := rest, cmd := if s.fault ≠ none ∧ 2 < c.toNat then s.cmd else c }

/-- A walk runs the element decoded from the bits at its place, with nothing added (log 2, log 3). -/
def Obligations.StepRunsElement : Prop :=
  ∀ (s : State) (pl : Place) (w : Word) (rest : List HostAction) (i : Instr),
    s.script = .walk pl :: rest → fetchWire s pl = some w → decode s.params (.wire pl w) = .instr i →
      step s = exec i { s with script := rest }

/-- The bits an element is decoded from are the span's bits from the cursor on (R41, R100), the stream's next word (R46),
or, for a length prefix, the word after the first start marker ahead (R287); the walk that asks for them is the model's
(log 3). -/
def Obligations.FetchReadsSpanOrStream : Prop :=
  ∀ (s : State),
    (∀ pl : Place, pl.atCursor = true → Ready s →
      ∃ v, fetchWire s pl = some v
        ∧ ∀ k, k < 32 → s.p + k < 32 * s.spanLen → v.getLsbD (31 - k) = spanBit s (s.p + k))
      ∧ (∀ kind, fetchWire s (.scan kind) = s.strm.word s.strmPos)
      ∧ (∀ j, MsStartAt s j → (∀ k, k < j → ¬ MsStartAt s k) →
          fetchWire s .msPrefix = s.strm.word (s.strmPos + j + 1))
      ∧ ((∀ j, ¬ MsStartAt s j) → fetchWire s .msPrefix = none)

/-- The host's writes (R11, R26, R28): `IBUF[i]` stores that word and no other byte; `CFG_NLINKS` keeps its value on 0 and
above 12. They land also while a fault is pending (R304). There is no word at or above `IBUF_WORDS`, and an `ILEN` above it
is refused (log 12). The host's own frame is begun, written line by line, and loaded as `IBUF` and `ILEN` (log 17). -/
def Obligations.HostWritesLand : Prop :=
  ∀ (s : State) (rest : List HostAction),
    (∀ i w, s.script = .writeIbuf i w :: rest → i < s.params.ibufWords → Memory.wf s.ibuf = true →
        ∃ m, step s = .next { s with script := rest, ibuf := m } ∧ Memory.wf m = true ∧ Memory.readWord m i = w
          ∧ sameBytesOutside (4 * i) 4 s.ibuf m)
      ∧ (∀ i w, s.script = .writeIbuf i w :: rest → s.params.ibufWords ≤ i → step s = .fault .noSuchWord)
      ∧ (∀ v, s.script = .writeArg0 v :: rest → step s = .next { s with script := rest, arg0 := v })
      ∧ (∀ v, s.script = .writeArg1 v :: rest → step s = .next { s with script := rest, arg1 := v })
      ∧ (∀ v, s.script = .writeArg2 v :: rest → step s = .next { s with script := rest, arg2 := v })
      ∧ (∀ v, s.script = .writeArg3 v :: rest → step s = .next { s with script := rest, arg3 := v })
      ∧ (∀ n, s.script = .writeIlen n :: rest → n ≤ s.params.ibufWords →
          step s = .next { s with script := rest, ilen := n })
      ∧ (∀ n, s.script = .writeIlen n :: rest → s.params.ibufWords < n → step s = .refused .ilenOutOfRange)
      ∧ (∀ v, s.script = .writeNlinks v :: rest → 1 ≤ v.toNat → v.toNat ≤ 12 →
          step s = .next { s with script := rest, cfgNlinks := v })
      ∧ (∀ v, s.script = .writeNlinks v :: rest → v.toNat = 0 ∨ 12 < v.toNat →
          step s = .next { s with script := rest })
      ∧ (∀ b, s.script = .writeZsEn b :: rest → step s = .next { s with script := rest, cfgZsEn := b })
      ∧ (s.script = .frameNew :: rest → step s = .next { s with script := rest, frame := ⟨[], 0⟩ })
      ∧ (∀ n v, s.script = .frameBits n v :: rest →
          step s = .next { s with script := rest, frame := writeBits n v s.frame })
      ∧ (s.script = .frameLoad :: rest → (s.frame.op + 31) / 32 ≤ s.params.ibufWords → Memory.wf s.ibuf = true →
          ∃ m, step s = .next { s with script := rest, ibuf := m, ilen := (s.frame.op + 31) / 32 }
            ∧ Memory.wf m = true
            ∧ (∀ i, i < (s.frame.op + 31) / 32 → Memory.readWord m i = Memory.readWord s.frame.mem i)
            ∧ sameBytesOutside 0 (4 * ((s.frame.op + 31) / 32)) s.ibuf m)
      ∧ (s.script = .frameLoad :: rest → s.params.ibufWords < (s.frame.op + 31) / 32 →
          step s = .refused .ilenOutOfRange)

/-- A write of an unassigned number starts nothing and sets `LOG.bad_cmd`, unless a fault is pending (R323). -/
def Obligations.UnassignedCommandSetsBadCmd : Prop :=
  ∀ (s : State) (c : BitVec 6) (rest : List HostAction), s.script = .writeCmd c :: rest → Unassigned c →
    (s.fault = none →
      ∃ t, step s = .next t
        ∧ t = { s with script := rest, cmd := t.cmd, log := { s.log with badCmd := true } })
      ∧ (s.fault ≠ none → step s = .next { s with script := rest })

/-- While a fault is pending every instruction but `NOP`, `CLR_FAULT`, `CLR_LOG` changes nothing, and neither does the
write to `CMD` that names it, `CMD` included (R304; that a wire element waits like a command is log 3). The pseudo-elements
of the notation are no operations of the block (R89, log 17). -/
def Obligations.PendingFaultBlocks : Prop :=
  ∀ (s : State), s.fault ≠ none →
    (∀ i : Instr, i ≠ .nop → i ≠ .clrFault → i ≠ .clrLog → isPseudo i = false → exec i s = .next s)
      ∧ ∀ c rest, s.script = .writeCmd c :: rest →
          (2 < c.toNat → step s = .next { s with script := rest })
            ∧ (c = 0x00#6 → step s = .next { s with script := rest, cmd := c })
            ∧ (c = 0x01#6 →
                step s = .next { s with script := rest, cmd := c, fault := none, faultInfo := 0#32, faultOp := 0#6 })
            ∧ (c = 0x02#6 → step s = .next { s with script := rest, cmd := c, log := Log.zero })

/-- `NOP`, `CLR_FAULT`, `CLR_LOG`, in every state (R320, R321, R322). -/
def Obligations.HousekeepingActs : Prop :=
  ∀ (p : Params) (s : State),
    (decode p (.cmd 0x00#6) = .instr .nop ∧ exec .nop s = .next s)
      ∧ (decode p (.cmd 0x01#6) = .instr .clrFault
          ∧ exec .clrFault s = .next { s with fault := none, faultInfo := 0#32, faultOp := 0#6 })
      ∧ (decode p (.cmd 0x02#6) = .instr .clrLog
          ∧ exec .clrLog s = .next { s with log := ⟨false, false, false, false, false⟩ })

/-! ### Structural errors and flags -/

/-- An instruction that raises a structural error: its number in `FAULT_OP`, its destination alone unspecified, the `LOG`
bits kept, all else as it was (R303, R27; what R303 leaves to read off is log 7, the numbers of wire elements log 3). -/
def Obligations.ErrorLeavesRestUnchanged : Prop :=
  ∀ (i : Instr) (s t : State), s.fault = none → exec i s = .next t → t.fault ≠ none →
    t.faultOp = faultNumber i ∧ FaultFrame (destOf i) s t ∧ s.log.keptIn t.log = true

/-- A record, buffer, register or flag is written only by the instructions named for it, whether they complete or raise
(R11, R12, R21 to R25); `P` moves on completion only under the instructions that move it (R12); a `LOG` bit is sticky but
for `CLR_LOG` (R25) and set only by the instructions named for it, `LOG.code_err` by none (R192, R193); no instruction
writes a register of the host's (R22). Which record a wire element builds is log 3; a pseudo-element writes the host's
frame alone (log 17). -/
def Obligations.RecordsAndFlagsHaveTheirWriters : Prop :=
  ∀ (i : Instr) (s t : State), exec i s = .next t →
    (destOf i ≠ .daq → t.daq = s.daq)
      ∧ (destOf i ≠ .trig → t.trig = s.trig)
      ∧ (destOf i ≠ .roc → t.roc = s.roc)
      ∧ (destOf i ≠ .erx → t.erx = s.erx ∧ t.erxConsumed = s.erxConsumed)
      ∧ (destOf i ≠ .econd → t.econd = s.econd)
      ∧ (destOf i ≠ .ms → t.ms = s.ms)
      ∧ (destOf i ≠ .fmt →
          t.obuf = s.obuf ∧ t.olen = s.olen ∧ t.op = s.op ∧ t.fmtOpen = s.fmtOpen ∧ t.fmtNlinks = s.fmtNlinks)
      ∧ (destOf i ≠ .strm → i ≠ .setSpan → t.spanBase = s.spanBase ∧ t.spanLen = s.spanLen)
      ∧ (movesCursor i = false → t.fault = none → t.p = s.p)
      ∧ (destOf i ≠ .resOnly → destOf i ≠ .res → destOf i ≠ .strm → i ≠ .atEnd → t.res = s.res)
      ∧ (destOf i ≠ .strm → t.ibuf = s.ibuf ∧ t.ilen = s.ilen ∧ t.strmPos = s.strmPos ∧ t.strmEof = s.strmEof)
      ∧ (destOf i ≠ .crcr → t.crc32 = s.crc32)
      ∧ (i ≠ .crc8U64 → t.crc8 = s.crc8)
      ∧ (i ≠ .sampleDec → i ≠ .sampleEnc → (∀ tc tp a m u, i ≠ .sample tc tp a m u) → t.samp = s.samp)
      ∧ t.arg0 = s.arg0 ∧ t.arg1 = s.arg1 ∧ t.arg2 = s.arg2 ∧ t.arg3 = s.arg3 ∧ t.cmd = s.cmd
      ∧ t.cfgNlinks = s.cfgNlinks ∧ t.cfgZsEn = s.cfgZsEn
      ∧ (i ≠ .clrLog →
          s.log.keptIn t.log = true ∧ t.log.keptIn (s.log.join (logBitsOf i)) = true
            ∧ t.log.codeErr = s.log.codeErr ∧ t.log.badCmd = s.log.badCmd)
      ∧ (isPseudo i = false → t.frame = s.frame)
      ∧ (isPseudo i = true → t = { s with frame := t.frame, draws := t.draws })

/-- No instruction is refused, and the only stop is a scan over an infinite stream with no start marker from its position
on, which is no transition (R280, R301); the two scans stop exactly there. A scan whose next word the walk has named looks
behind that word (log 3). -/
def Obligations.OnlyEndlessScansStop : Prop :=
  ∀ (s : State),
    (∀ i r, exec i s ≠ .refused r)
      ∧ (∀ i f, exec i s = .fault f →
          f = .endlessScan ∧ s.strm.cycle ≠ []
            ∧ (faultNumber i = 0x20#6 ∧ (∀ j, ¬ RocStartAt s (j + 1))
              ∨ faultNumber i = 0x21#6 ∧ ∀ j, ¬ MsStartAt s (j + 1)))
      ∧ (exec .scanRoc s = .fault .endlessScan ↔ Idle s ∧ s.strm.cycle ≠ [] ∧ ∀ j, ¬ RocStartAt s j)
      ∧ (exec .scanMs s = .fault .endlessScan ↔ Idle s ∧ s.strm.cycle ≠ [] ∧ ∀ j, ¬ MsStartAt s j)

/-! ### The bit cursor -/

/-- `RD_BITS n` and `PEEK_BITS n`: the `n` bits at the cursor, zero-extended; the first moves the cursor past them, the
second does not. Their two errors leave `P` and the span as they were (R100 to R103). -/
def Obligations.ReadAndPeekBits : Prop :=
  ∀ (s : State), Ready s →
    decode s.params (.cmd 0x04#6) = .instr .rdBits
      ∧ decode s.params (.cmd 0x05#6) = .instr .peekBits
      ∧ (arg0Nat s ≤ 32 → s.p + arg0Nat s ≤ 32 * s.spanLen →
          ∃ v : Word,
            exec .rdBits s = .next { s with res := v, p := s.p + arg0Nat s }
              ∧ exec .peekBits s = .next { s with res := v }
              ∧ ∀ k, k < 32 → v.getLsbD k = (decide (k < arg0Nat s) && spanBit s (s.p + (arg0Nat s - 1 - k))))
      ∧ (arg0Nat s ≤ 32 → 32 * s.spanLen < s.p + arg0Nat s →
          TakesError .rdBits s .lengthError s.p ∧ TakesError .peekBits s .lengthError s.p)
      ∧ (32 < arg0Nat s →
          TakesError .rdBits s .badFormat (arg0Nat s) ∧ TakesError .peekBits s .badFormat (arg0Nat s))

/-- The source's split read of 1 to 32 bits gives what `RD_BITS` gives (R104). -/
def Obligations.SplitReadIsReadBits : Prop :=
  ∀ (s : State), Ready s → 1 ≤ arg0Nat s → arg0Nat s ≤ 32 → s.p + arg0Nat s ≤ 32 * s.spanLen →
    exec .rdBits s
      = .next
          { s with res := BitVec.ofNat 32 (splitRead (spanWords s) s.p (arg0Nat s)), p := s.p + arg0Nat s }

/-- `SEEK_WORD k` and `SEEK_BYTE k`: absolute, up to and with the end of the span; `SET_SPAN base, len` selects a window of
`IBUF` with the cursor at its start (R105, R106, R109). -/
def Obligations.SeeksAndSetSpan : Prop :=
  ∀ (s : State), Idle s →
    decode s.params (.cmd 0x06#6) = .instr .seekWord
      ∧ decode s.params (.cmd 0x07#6) = .instr .seekByte
      ∧ decode s.params (.cmd 0x0A#6) = .instr .setSpan
      ∧ (arg0Nat s ≤ s.spanLen → exec .seekWord s = .next { s with p := 32 * arg0Nat s })
      ∧ (s.spanLen < arg0Nat s → TakesError .seekWord s .lengthError (arg0Nat s))
      ∧ (arg0Nat s ≤ 4 * s.spanLen → exec .seekByte s = .next { s with p := 8 * arg0Nat s })
      ∧ (4 * s.spanLen < arg0Nat s → TakesError .seekByte s .lengthError (arg0Nat s))
      ∧ (arg0Nat s + arg1Nat s ≤ s.ilen →
          exec .setSpan s = .next { s with spanBase := arg0Nat s, spanLen := arg1Nat s, p := 0 })
      ∧ (s.ilen < arg0Nat s + arg1Nat s → TakesError .setSpan s .lengthError (arg0Nat s + arg1Nat s))

/-- `ALIGN_WORD` moves the cursor to the next multiple of 32 at or after it, within the span; `AT_END` tells whether it is
at the end (R107, R108). -/
def Obligations.AlignAndAtEnd : Prop :=
  ∀ (s : State), Idle s →
    decode s.params (.cmd 0x08#6) = .instr .alignWord
      ∧ decode s.params (.cmd 0x09#6) = .instr .atEnd
      ∧ (∃ q, exec .alignWord s = .next { s with p := q } ∧ 32 ∣ q ∧ s.p ≤ q ∧ q < s.p + 32
          ∧ (s.p ≤ 32 * s.spanLen → q ≤ 32 * s.spanLen))
      ∧ (s.p = 32 * s.spanLen → exec .atEnd s = .next { s with res := 1#32 })
      ∧ (s.p ≠ 32 * s.spanLen → exec .atEnd s = .next { s with res := 0#32 })

/-! ### Samples -/

/-- `SAMPLE_DEC` in its four modes, with the arithmetic of the rules (R121 to R125). -/
def Obligations.SampleDecByMode : Prop :=
  ∀ (s : State), Idle s →
    let w := s.arg0
    let a : Int := ((w.toNat / 2 ^ 20 % 1024 : Nat) : Int)
    let m : Int := ((w.toNat / 2 ^ 10 % 1024 : Nat) : Int)
    let o : Int := ((w.toNat % 1024 : Nat) : Int)
    decode s.params (.cmd 0x10#6) = .instr .sampleDec
      ∧ (w.toNat / 2 ^ 30 = 0 → exec .sampleDec s = .next { s with samp := ⟨false, false, a, m, -1, o, w⟩ })
      ∧ (w.toNat / 2 ^ 30 = 1 → exec .sampleDec s = .next { s with samp := ⟨false, true, a, m, -1, o, w⟩ })
      ∧ (w.toNat / 2 ^ 30 = 3 → exec .sampleDec s = .next { s with samp := ⟨true, true, a, -1, m, o, w⟩ })
      ∧ (w.toNat / 2 ^ 30 = 2 → exec .sampleDec s = .next { s with samp := ⟨true, false, -1, m, -1, o, w⟩ })

/-- `SAMPLE_ENC`: negative arguments give zero, `Tc = Tp = 1` exactly when `tot > 0`, only `SAMP.word` is written (R126). -/
def Obligations.SampleEncBuildsWord : Prop :=
  ∀ (s : State), Idle s →
    let v (x : Word) : Int := (x.extractLsb' 0 11).toInt
    let f : Nat := if 0 < v s.arg2 then 1 else 0
    let main : Nat := if 0 < v s.arg2 then (v s.arg2).toNat else (v s.arg1).toNat
    decode s.params (.cmd 0x11#6) = .instr .sampleEnc
      ∧ exec .sampleEnc s
          = .next
              { s with
                samp :=
                  { s.samp with
                    word :=
                      BitVec.ofNat 32
                        (f * 2 ^ 31 + f * 2 ^ 30 + (v s.arg0).toNat * 2 ^ 20 + main * 2 ^ 10 + (v s.arg3).toNat) } }

/-- Decoding an encoded sample gives back every field its mode makes valid, an absent (negative) one as 0 (R127). -/
def Obligations.SampleRoundTrip : Prop :=
  ∀ (s : State) (a d t o : Int), Idle s →
    (s.arg0.extractLsb' 0 11).toInt = a → (s.arg1.extractLsb' 0 11).toInt = d →
    (s.arg2.extractLsb' 0 11).toInt = t → (s.arg3.extractLsb' 0 11).toInt = o →
    ∃ u v, exec .sampleEnc s = .next u ∧ exec .sampleDec { u with arg0 := u.samp.word } = .next v
      ∧ v.samp.adcTm1 = max a 0 ∧ v.samp.toa = max o 0
      ∧ (t ≤ 0 → v.samp.adc = max d 0 ∧ v.samp.tot = -1)
      ∧ (0 < t → v.samp.tot = t ∧ v.samp.adc = -1)

/-- A `SAMPLE` word, the words of a trigger link frame, and the length and table words of a single-ROC packet, walked at the
cursor (log 3): each writes its fields and the cursor passes it (R62 and R121; R66, R67 and R162; R241 and R242). -/
def Obligations.WordElementsWriteRecords : Prop :=
  ∀ (s : State), WordAhead s →
    (∀ (tc tp : Bool) (a m o : BitVec 10),
        exec (.sample tc tp a m o) s
          = .next
              { s with
                p := s.p + 32,
                samp :=
                  { tc := tc, tp := tp, adcTm1 := if tc && !tp then -1 else (a.toNat : Int),
                    adc := if tc && tp then -1 else (m.toNat : Int),
                    tot := if tc && tp then (m.toNat : Int) else -1, toa := (o.toNat : Int),
                    word := sampleWord tc tp a m o } })
      ∧ (∀ soft,
          exec (.trigSoft soft) s = .next { s with p := s.p + 32, trig := { s.trig with softHeader := soft } })
      ∧ (∀ (iBx : Nat) (h : iBx < 4) (sync : BitVec 4) (s0 s1 s2 s3 : BitVec 7),
          exec (.trigData iBx sync s0 s1 s2 s3) s
            = .next
                { s with
                  p := s.p + 32,
                  trig :=
                    { s.trig with
                      data := s.trig.data.set iBx (sync ++ s0 ++ s1 ++ s2 ++ s3),
                      syncBad := s.trig.syncBad.set iBx (decide (sync ∉ s.params.trigSyncSet)) },
                  log :=
                    { s.log with syncWarn := s.log.syncWarn || decide (sync ∉ s.params.trigSyncSet) } })
      ∧ (∀ total : Word,
          (total.toNat = s.spanLen →
              exec (.rocLen total) s = .next { s with p := s.p + 32, roc := { s.roc with totalLen := total } })
            ∧ (total.toNat ≠ s.spanLen → TakesError (.rocLen total) s .badLength s.spanLen))
      ∧ ∀ (k : Nat) (hk : k < 3) (hi lo : BitVec 16), 4 ≤ s.spanLen →
          exec (.rocLtab k hi lo) s
            = .next
                { s with
                  p := s.p + 32,
                  roc :=
                    { s.roc with
                      linkLen :=
                        if s.params.lenTableOrder = .upperFirst then
                          (s.roc.linkLen.set (2 * k) hi).set (2 * k + 1) lo
                        else (s.roc.linkLen.set (2 * k) lo).set (2 * k + 1) hi } }

/-! ### Checks -/

/-- `CRC32_SPAN` (R142): the CRC-32 of the span's words, `P` unchanged, 0 for the empty span; and the source's own test
value, that of the word `0x00000002`. -/
def Obligations.Crc32SpanOfWords : Prop :=
  (∀ (s : State), Ready s →
      decode s.params (.cmd 0x12#6) = .instr .crc32Span
        ∧ exec .crc32Span s
            = .next { s with crc32 := crc32Of ((List.range s.spanLen).map fun i => spanWord s i) })
    ∧ crc32Of [] = 0#32
    ∧ crc32Of [0x00000002#32] = 0x09823B6E#32

/-- The CRC-32 of a message followed by its own CRC-32 is 0, and leading zero words change nothing: what a zero initial
value and no final XOR come to (R140, R141). -/
def Obligations.Crc32ZeroResidue : Prop :=
  ∀ (ws : List Word) (n : Nat),
    crc32Of (ws ++ [crc32Of ws]) = 0#32 ∧ crc32Of (List.replicate n 0#32 ++ ws) = crc32Of ws

/-- The byte-wise table form of the CRC-32 (R141): with `T[b]` the register after the byte `b`, a word is four table steps,
most significant byte first. -/
def Obligations.Crc32TableForm : Prop :=
  let T (b : Byte) : BitVec 32 := crcBits crc32Poly b 8 0#32
  let stepByte (crc : BitVec 32) (b : Byte) : BitVec 32 := (crc <<< 8) ^^^ T (crc.extractLsb' 24 8 ^^^ b)
  T 1#8 = 0x04C11DB7#32 ∧ T 2#8 = 0x09823B6E#32
    ∧ ∀ (crc : BitVec 32) (w : Word),
        crc32Word crc w
          = stepByte
              (stepByte (stepByte (stepByte crc (w.extractLsb' 24 8)) (w.extractLsb' 16 8)) (w.extractLsb' 8 8))
              (w.extractLsb' 0 8)

/-- `CRC8_U64 hi, lo` (R218), with its example and the polynomial as the CRC-8 of 1 (R216). -/
def Obligations.Crc8OfArguments : Prop :=
  (∀ (s : State), Idle s →
      decode s.params (.cmd 0x13#6) = .instr .crc8U64
        ∧ exec .crc8U64 s
            = .next
                { s with
                  crc8 := crc8Of s.params.crc8Poly (BitVec.ofNat 64 (s.arg0.toNat * 2 ^ 32 + s.arg1.toNat)) })
    ∧ crc8Of 0xA7#8 0x00AA5741000750AC#64 = 0xFC#8
    ∧ ∀ poly : BitVec 8, crc8Of poly 1#64 = poly

/-- The CRC-8 input built from the two header words, bit range by bit range, in both forms (R217), with the example the
two forms agree on. -/
def Obligations.Crc8BaseLayout : Prop :=
  (∀ w0 w1 : Word,
      (crc8Base .baseB w0 w1).extractLsb' 56 8 = 0#8
        ∧ (crc8Base .baseB w0 w1).extractLsb' 30 26 = w0.extractLsb' 6 26
        ∧ (crc8Base .baseB w0 w1).extractLsb' 24 6 = 0#6
        ∧ (crc8Base .baseB w0 w1).extractLsb' 0 24 = w1.extractLsb' 8 24
        ∧ crc8Base .baseA w0 w1 = crc8Base .baseB (w0 &&& 0xFFFFFF3F#32) w1)
    ∧ crc8Base .baseA 0xAA574100#32 0x0750ACFC#32 = 0x00AA5741000750AC#64
    ∧ crc8Base .baseB 0xAA574100#32 0x0750ACFC#32 = 0x00AA5741000750AC#64

/-! ### DAQ link frames -/

/-- `DAQ_FROM` on 40 words builds the whole record and changes nothing else but `LOG.hdr_warn`; on any other length it
raises `BadLength` (R135 to R139, R143, R63 to R65, R110). -/
def Obligations.DaqFromBuildsRecord : Prop :=
  ∀ (s : State), Ready s →
    decode s.params (.cmd 0x14#6) = .instr .daqFrom
      ∧ (s.spanLen ≠ 40 → TakesError .daqFrom s .badLength s.spanLen)
      ∧ (s.spanLen = 40 →
          ∃ d : Link,
            let h := spanWord s 0
            exec .daqFrom s
                = .next
                    { s with
                      daq := d,
                      log :=
                        { s.log with hdrWarn := s.log.hdrWarn || (d.corruption[0] || d.corruption[5]) } }
              ∧ d.corruption[0] = decide (h.toNat / 2 ^ 28 ≠ 0b1111)
              ∧ d.bx = h.extractLsb' 16 12 ∧ d.event = h.extractLsb' 10 6 ∧ d.orbit = h.extractLsb' 7 3
              ∧ d.corruption[3] = h.getLsbD 5
              ∧ (s.params.daqFlagOrder = .to234 → d.corruption[2] = h.getLsbD 6 ∧ d.corruption[4] = h.getLsbD 4)
              ∧ (s.params.daqFlagOrder = .to432 → d.corruption[4] = h.getLsbD 6 ∧ d.corruption[2] = h.getLsbD 4)
              ∧ d.evtFlag = h.extractLsb' 0 4
              ∧ d.firstEvent = decide (h.toNat % 16 = 0b0010)
              ∧ d.corruption[5] = decide (h.toNat % 16 ≠ 0b0010 ∧ h.toNat % 16 ≠ 0b0101)
              ∧ d.adcCm0 = (spanWord s 1).extractLsb' 10 10 ∧ d.adcCm1 = (spanWord s 1).extractLsb' 0 10
              ∧ (∀ c (hc : c < 36), d.ch[c] = spanWord s (if c < 18 then 2 + c else 3 + c))
              ∧ d.calib = spanWord s 20
              ∧ d.crcWord = spanWord s 39
              ∧ d.corruption[1] = decide (crc32Of ((List.range 39).map fun k => spanWord s k) ≠ spanWord s 39)
              ∧ d.nwords = 40
              ∧ d.stat = 0#3 ∧ d.ham = 0#3 ∧ d.isEmpty = false ∧ d.chmap = 0#37
              ∧ d.code = Vector.replicate 37 0#4)

/-- The 37 slots of a link record are separate storage, slot 18 the calib channel (R138). -/
def Obligations.SlotsAreStorage : Prop :=
  ∀ (d : Link) (i j : Nat) (w : Word), i < 37 → j < 37 →
    loadSlot (storeSlot d i w) j = (if i = j then w else loadSlot d j)
      ∧ (∀ (hj : j < 18), loadSlot d j = d.ch[j]) ∧ loadSlot d 18 = d.calib
      ∧ (∀ (_ : 18 < j), loadSlot d j = d.ch[j - 1]?.getD 0#32)

/-- The three words of a DAQ link frame walked at the cursor (log 3): each writes its fields of `DAQ` as R63, R64, R65
have them and the cursor passes it; the CRC word's check is over the span's first 39 words, so its span is a whole
frame. -/
def Obligations.DaqElementsWriteRecord : Prop :=
  ∀ (s : State), WordAhead s →
    (∀ lead bx event orbit f6 f5 f4 evt,
        ∃ d : Link,
          exec (.daqHdr lead bx event orbit f6 f5 f4 evt) s
              = .next
                  { s with
                    p := s.p + 32, daq := d,
                    log := { s.log with hdrWarn := s.log.hdrWarn || (d.corruption[0] || d.corruption[5]) } }
            ∧ d = { s.daq with
                    bx := bx, event := event, orbit := orbit, evtFlag := evt, firstEvent := decide (evt = 0b0010#4),
                    corruption := d.corruption }
            ∧ d.corruption[0] = decide (lead ≠ 0b1111#4)
            ∧ d.corruption[1] = s.daq.corruption[1]
            ∧ d.corruption[2] = (if s.params.daqFlagOrder = .to234 then f6 else f4)
            ∧ d.corruption[3] = f5
            ∧ d.corruption[4] = (if s.params.daqFlagOrder = .to234 then f4 else f6)
            ∧ d.corruption[5] = decide (evt ≠ 0b0010#4 ∧ evt ≠ 0b0101#4))
      ∧ (∀ ignored cm0 cm1,
          exec (.daqCm ignored cm0 cm1) s
            = .next { s with p := s.p + 32, daq := { s.daq with adcCm0 := cm0, adcCm1 := cm1 } })
      ∧ (∀ crc, s.spanLen = 40 →
          exec (.daqCrc crc) s
            = .next
                { s with
                  p := s.p + 32,
                  daq :=
                    { s.daq with
                      crcWord := crc,
                      corruption :=
                        s.daq.corruption.set 1
                          (decide (crc32Of ((List.range 39).map fun k => spanWord s k) ≠ crc)) } })
      ∧ (∀ crc, s.spanLen ≠ 40 → TakesError (.daqCrc crc) s .badLength s.spanLen)

/-! ### Trigger link frames -/

/-- `TRIG_FROM` on 5 words; on any other length `BadLength` (R160, R161, R162). -/
def Obligations.TrigFromBuildsRecord : Prop :=
  ∀ (s : State), Ready s →
    decode s.params (.cmd 0x15#6) = .instr .trigFrom
      ∧ (s.spanLen ≠ 5 → TakesError .trigFrom s .badLength s.spanLen)
      ∧ (s.spanLen = 5 →
          ∃ t : Trigf,
            exec .trigFrom s
                = .next
                    { s with
                      trig := t, log := { s.log with syncWarn := s.log.syncWarn || t.syncBad.toList.any id } }
              ∧ t.softHeader = spanWord s 0
              ∧ ∀ b (hb : b < 4),
                  t.data[b] = spanWord s (1 + b)
                    ∧ (t.syncBad[b] = true ↔ (spanWord s (1 + b)).extractLsb' 28 4 ∉ s.params.trigSyncSet))

/-- `TRIG_CSUM` and `TRIG_LSUM` with indices in range, and the index each rejects (R164, R167). -/
def Obligations.TrigSumsOfData : Prop :=
  ∀ (s : State), Idle s →
    decode s.params (.cmd 0x16#6) = .instr .trigCsum
      ∧ decode s.params (.cmd 0x17#6) = .instr .trigLsum
      ∧ (∀ (_ : arg0Nat s < 4) (hb : arg1Nat s < 4),
          let sh := if s.params.trigSumOrder = .msbFirst then 21 - 7 * arg0Nat s else 7 * arg0Nat s
          let c := s.trig.data[arg1Nat s].toNat / 2 ^ sh % 128
          exec .trigCsum s = .next { s with res := BitVec.ofNat 32 c }
            ∧ exec .trigLsum s
                = .next
                    { s with
                      res := BitVec.ofNat 32 (if c < 8 then c else (8 + c % 8) * 2 ^ (c / 8 - 1)) })
      ∧ (4 ≤ arg0Nat s →
          TakesError .trigCsum s .badFormat (arg0Nat s) ∧ TakesError .trigLsum s .badFormat (arg0Nat s))
      ∧ (arg0Nat s < 4 → 4 ≤ arg1Nat s →
          TakesError .trigCsum s .badFormat (arg1Nat s) ∧ TakesError .trigLsum s .badFormat (arg1Nat s))

/-! ### Link sub-packets -/

/-- The two forms without channel records. An empty sub-packet is one word in both modes, with every slot, code and map bit
0; in passthrough a sub-packet that is not empty is its header words and 37 verbatim words, whatever they hold, no code
looked at and no flag set (R176, R177, R180, R197, R198). -/
def Obligations.ErxEmptyAndPassthrough : Prop :=
  ∀ (s : State), Ready s →
    (1 ≤ s.spanLen → (spanWord s 0).getLsbD 25 = true →
        ∃ d : Link,
          exec .erxUnpack s = .next { s with erx := d, erxConsumed := 1, p := 32 }
            ∧ ErxHeaderOf d (spanWord s 0)
            ∧ d.chmap = 0#37 ∧ d.nwords = 1 ∧ d.code = Vector.replicate 37 0#4
            ∧ ∀ k, k < 37 → loadSlot d k = 0#32)
      ∧ (2 ≤ s.spanLen → (spanWord s 0).getLsbD 25 = false → argPassthrough s = true →
          let h := if s.params.ptHeader = .two then 2 else 1
          (h + 37 ≤ s.spanLen →
              ∃ d : Link,
                exec .erxUnpack s = .next { s with erx := d, erxConsumed := h + 37, p := 32 * (h + 37) }
                  ∧ ErxHeaderOf d (spanWord s 0)
                  ∧ d.chmap = (if s.params.ptHeader = .two then chmapOf s else 0#37)
                  ∧ d.nwords = h + 37 ∧ d.code = Vector.replicate 37 0#4
                  ∧ ∀ k, k < 37 → loadSlot d k = spanWord s (h + k))
            ∧ (s.spanLen < h + 37 → TakesError .erxUnpack s .lengthError s.spanLen))

/-- A zero-suppressed sub-packet whose records end within the span: every present slot holds the sample word of its record
and the 4 bits seen at its start, every absent slot 0; the consumed length is rounded up to whole words; only the code
`10` is logged (R175, R178 to R190, R192, R197, R198). Its records end by bit 1248, so 39 words always suffice (R190). -/
def Obligations.ErxZeroSuppressedDecodes : Prop :=
  ∀ (s : State), Ready s → 2 ≤ s.spanLen → (spanWord s 0).getLsbD 25 = false → argPassthrough s = false →
    decode s.params (.cmd 0x18#6) = .instr .erxUnpack
      ∧ slotPos s 37 ≤ 32 * 39
      ∧ (slotPos s 37 ≤ 32 * s.spanLen →
          ∃ d : Link,
            exec .erxUnpack s
                = .next
                    { s with
                      erx := d, erxConsumed := (slotPos s 37 + 31) / 32, p := 32 * ((slotPos s 37 + 31) / 32),
                      log := { s.log with invalidCode := s.log.invalidCode || hasInvalidCode d } }
              ∧ ErxHeaderOf d (spanWord s 0)
              ∧ d.chmap = chmapOf s
              ∧ d.nwords = (slotPos s 37 + 31) / 32
              ∧ ∀ k (hk : k < 37),
                  (present s.params.chmapOrder (chmapOf s) k = true →
                      loadSlot d k = (recordSpec (spanWords s) (slotPos s k)).2
                        ∧ ∀ j, j < 4 → d.code[k].getLsbD (3 - j) = spanBit s (slotPos s k + j))
                    ∧ (present s.params.chmapOrder (chmapOf s) k = false →
                        loadSlot d k = 0#32 ∧ d.code[k] = 0#4))

/-- The faults of `ERX_UNPACK`, with the number each records: no word, no second word, and the read of a record that passes
the span, at the record's start if not even its 4 bits are there, after its code otherwise (R191). -/
def Obligations.ErxFaultsAtTheRead : Prop :=
  ∀ (s : State), Ready s →
    (s.spanLen = 0 → TakesError .erxUnpack s .lengthError 0)
      ∧ (s.spanLen = 1 → (spanWord s 0).getLsbD 25 = false → TakesError .erxUnpack s .lengthError 1)
      ∧ ∀ k, 2 ≤ s.spanLen → (spanWord s 0).getLsbD 25 = false → argPassthrough s = false → k < 37 →
          present s.params.chmapOrder (chmapOf s) k = true → slotPos s k ≤ 32 * s.spanLen →
          (32 * s.spanLen < slotPos s k + 4 → TakesError .erxUnpack s .lengthError (slotPos s k))
            ∧ (slotPos s k + 4 ≤ 32 * s.spanLen → 32 * s.spanLen < slotPos s (k + 1) →
                TakesError .erxUnpack s .lengthError
                  (slotPos s k + codeSpec (spanWords s) (slotPos s k)))

/-- A channel record walked at the cursor for a slot (log 3): the slot's word and code as R182 to R188 have them, the
cursor past its 16, 24 or 32 bits; the code `10` is logged. Every class raises where the span ends inside it: at its start
if not even 4 bits are there, after its code otherwise (R191). -/
def Obligations.RecordElementsFillSlot : Prop :=
  ∀ (s : State) (slot : Nat) (a m o : BitVec 10), Ready s →
    let into (c : BitVec 4) (w : Word) : Link := storeSlot (storeCode s.erx slot c) slot w
    (s.p + 24 ≤ 32 * s.spanLen →
        exec (.zs0000 slot a m) s
            = .next { s with p := s.p + 24, erx := into 0b0000#4 (sampleWord false false a m 0#10) }
          ∧ exec (.zs0010 slot a m) s
            = .next { s with p := s.p + 24, erx := into 0b0010#4 (sampleWord false true a m 0#10) }
          ∧ exec (.zs0011 slot m o) s
            = .next { s with p := s.p + 24, erx := into 0b0011#4 (sampleWord false false 0#10 m o) })
      ∧ (s.p + 16 ≤ 32 * s.spanLen →
          ∀ padBits,
            exec (.zs0001 slot padBits m) s
              = .next { s with p := s.p + 16, erx := into 0b0001#4 (sampleWord false false 0#10 m 0#10) })
      ∧ (s.p + 32 ≤ 32 * s.spanLen →
          exec (.fp01 slot a m o) s
              = .next
                  { s with
                    p := s.p + 32, erx := into (0b01#2 ++ a.extractLsb' 8 2) (sampleWord false false a m o) }
            ∧ exec (.fp10 slot a m o) s
              = .next
                  { s with
                    p := s.p + 32, erx := into (0b10#2 ++ a.extractLsb' 8 2) (sampleWord true false a m o),
                    log := { s.log with invalidCode := true } }
            ∧ exec (.fp11 slot a m o) s
              = .next
                  { s with
                    p := s.p + 32, erx := into (0b11#2 ++ a.extractLsb' 8 2) (sampleWord true true a m o) })
      ∧ ∀ padBits,
          ∀ x ∈ [(Instr.zs0000 slot a m, 24, 4), (.zs0001 slot padBits m, 16, 4), (.zs0010 slot a m, 24, 4),
              (.zs0011 slot m o, 24, 4), (.fp01 slot a m o, 32, 2), (.fp10 slot a m o, 32, 2),
              (.fp11 slot a m o, 32, 2)],
            (32 * s.spanLen < s.p + 4 → TakesError x.1 s .lengthError s.p)
              ∧ (s.p + 4 ≤ 32 * s.spanLen → 32 * s.spanLen < s.p + x.2.1 →
                  TakesError x.1 s .lengthError (s.p + x.2.2))

/-- The header words and the verbatim sample words of a sub-packet walked at the cursor (log 3): the first word opens the
record (R176, R177), the second completes the bitmap (R178), a sample word is copied into its slot (R180). -/
def Obligations.ErxElementsWriteRecord : Prop :=
  ∀ (s : State), WordAhead s →
    (∀ stat ham isEmpty cm0 cm1 chmapHi,
        ∃ d : Link,
          exec (.erxHdr0 stat ham isEmpty cm0 cm1 chmapHi) s
              = .next { s with p := s.p + 32, erx := d, erxConsumed := if isEmpty then 1 else 0 }
            ∧ d = { Link.zero with
                    stat := stat, ham := ham, isEmpty := isEmpty, adcCm0 := cm0, adcCm1 := cm1,
                    chmap := if isEmpty then 0#37 else chmapHi ++ 0#32, nwords := if isEmpty then 1 else 0 })
      ∧ (∀ chmapLo,
          exec (.erxHdr1 chmapLo) s
            = .next
                { s with
                  p := s.p + 32, erx := { s.erx with chmap := s.erx.chmap.extractLsb' 32 5 ++ chmapLo } })
      ∧ ∀ slot word,
          exec (.ptSample slot word) s = .next { s with p := s.p + 32, erx := storeSlot s.erx slot word }

/-! ### Event packets -/

/-- A truncated packet is its two header words: every link `LINK0` and not stamped, no trailer, no trailer check (R219,
R210, R211, R212). The flags `corruption[0]`, `[1]` are whatever they are (R214, log 9). -/
def Obligations.EcondTruncatedStopsAtHeader : Prop :=
  ∀ (s : State), Ready s → 2 ≤ s.spanLen → (spanWord s 0).getLsbD 6 = true →
    decode s.params (.cmd 0x19#6) = .instr .econdFrom
      ∧ ∃ t, exec .econdFrom s = .next t
        ∧ t = { s with
                econd := t.econd, log := { s.log with hdrWarn := s.log.hdrWarn || t.econd.corruption[2] },
                draws := t.draws }
        ∧ EcondHeaderOf t.econd (spanWord s 0) (spanWord s 1)
        ∧ t.econd.corruption[2]
            = decide
                (crc8Of s.params.crc8Poly (crc8Base s.params.crc8Base (spanWord s 0) (spanWord s 1))
                  ≠ (spanWord s 1).extractLsb' 0 8)
        ∧ t.econd.corruption[3] = false ∧ t.econd.trailer = 0#32 ∧ t.econd.nwords = 2
        ∧ t.econd.links = List.replicate s.cfgNlinks.toNat Link.zero

/-- A packet that is not truncated: 39 words a link and a trailer always suffice, and whenever the operation raises nothing
it has unpacked `CFG_NLINKS` links as `ERX_UNPACK` does, stamped them and checked the trailer (R212, R220 to R226). -/
def Obligations.EcondFromUnpacksLinks : Prop :=
  ∀ (s : State), Ready s → 2 ≤ s.spanLen → (spanWord s 0).getLsbD 6 = false →
    (2 + 39 * s.cfgNlinks.toNat + 1 ≤ s.spanLen → ∃ t, exec .econdFrom s = .next t ∧ EcondDecoded s t)
      ∧ ∀ t, exec .econdFrom s = .next t → t.fault = none → EcondDecoded s t

/-- The structural errors of `ECOND_FROM` (R225): a span with no room for the header raises `LengthError` with the span's
length (R213); after `m` links unpacked as `ERX_UNPACK` unpacks them, a span with no room for the trailer raises it with the
offset of the missing word (R223), and a link whose `ERX_UNPACK` raises gives that error's kind and number, under this
operation's number. -/
def Obligations.EcondMissingWordRaises : Prop :=
  ∀ (s : State), Ready s →
    (s.spanLen < 2 → TakesError .econdFrom s .lengthError s.spanLen)
      ∧ ∀ (m : Nat) (off : Nat → Nat) (u : Nat → State), 2 ≤ s.spanLen → (spanWord s 0).getLsbD 6 = false →
          m ≤ s.cfgNlinks.toNat → off 0 = 2 →
          (∀ i, i < m →
            exec .erxUnpack (atLink (off i) ((spanWord s 0).getLsbD 13) s) = .next (u i)
              ∧ (u i).fault = none ∧ off (i + 1) = off i + (u i).erxConsumed) →
          (m = s.cfgNlinks.toNat → off m = s.spanLen → TakesError .econdFrom s .lengthError (off m))
            ∧ ∀ v e, m < s.cfgNlinks.toNat →
                exec .erxUnpack (atLink (off m) ((spanWord s 0).getLsbD 13) s) = .next v → v.fault = some e →
                TakesError .econdFrom s e v.faultInfo.toNat

/-- The header words and the trailer of a packet walked at the cursor (log 3), with the fields of R70, R71, R72. The second
header word finishes the header as R212 does before its link loop; the trailer's check runs over the span's words from 2
up to the word offset `P div 32`, which at a cursor inside a word is the model's choice (log 20). -/
def Obligations.EcondElementsWriteRecord : Prop :=
  ∀ (s : State), WordAhead s →
    (∀ marker length passthrough expected ht ebo m truncated hamming,
        exec (.econdHdr0 marker length passthrough expected ht ebo m truncated hamming) s
          = .next
              { s with
                p := s.p + 32,
                econd :=
                  { s.econd with
                    marker := marker, length := length, passthrough := passthrough, expected := expected, ht := ht,
                    ebo := ebo, m := m, truncated := truncated, hamming := hamming } })
      ∧ (∀ bx l1a orbit subErr rr crc,
          ∃ t, exec (.econdHdr1 bx l1a orbit subErr rr crc) s = .next t
            ∧ t = { s with
                    p := s.p + 32, econd := t.econd, draws := t.draws,
                    log :=
                      { s.log with
                        hdrWarn := s.log.hdrWarn || (s.econd.truncated && t.econd.corruption[2]) } }
            ∧ t.econd
                = { s.econd with
                    bx := bx, l1a := l1a, orbit := orbit, subpacketError := subErr, rr := rr, crc8 := crc,
                    corruption := t.econd.corruption,
                    links := List.replicate s.cfgNlinks.toNat Link.zero, trailer := 0#32,
                    nwords := if s.econd.truncated then 2 else s.econd.nwords }
            ∧ t.econd.corruption[2]
                = decide
                    (headerCrc8 s.params
                        (s.econd.marker ++ s.econd.length ++ BitVec.ofBool s.econd.passthrough
                          ++ BitVec.ofBool s.econd.expected ++ s.econd.ht ++ s.econd.ebo ++ BitVec.ofBool s.econd.m
                          ++ BitVec.ofBool s.econd.truncated ++ s.econd.hamming)
                        (bx ++ l1a ++ orbit ++ BitVec.ofBool subErr ++ rr ++ crc)
                      ≠ crc)
            ∧ t.econd.corruption[3] = false)
      ∧ ∀ crc,
          let bad := decide (crc32Of ((List.range (s.p / 32 - 2)).map fun k => spanWord s (2 + k)) ≠ crc)
          exec (.econdTrl crc) s
            = .next
                { s with
                  p := s.p + 32,
                  econd :=
                    { s.econd with
                      trailer := crc, corruption := s.econd.corruption.set 3 bad, nwords := s.p / 32 + 1 },
                  log := { s.log with hdrWarn := s.log.hdrWarn || (s.econd.corruption[2] || bad) } }

/-! ### Multi-sample envelopes -/

/-- `MS_FROM` on a span that opens with `k` whole groups, whose packets `ECOND_FROM` decodes: at the span's end the samples
are those groups and `i_soi` the first with its SOI flag set; with the record full or a group cut short it raises, and where
the next group's `ECOND_FROM` raises it gives that error's kind and number, under its own number (R231 to R234). -/
def Obligations.MsFromReadsGroups : Prop :=
  ∀ (s : State) (k : Nat) (off : Nat → Nat) (u : Nat → State), Ready s → k ≤ s.params.maxSamples → off 0 = 0 →
    off k ≤ s.spanLen →
    (∀ i, i < k →
      off (i + 1) = off i + 1 + msLength s (off i) ∧ off i < s.spanLen
        ∧ exec .econdFrom
              { withSpan (s.spanBase + off i + 1) (msLength s (off i)) s with
                draws := if i = 0 then s.draws else (u (i - 1)).draws } = .next (u i)
        ∧ (u i).fault = none) →
    decode s.params (.cmd 0x1A#6) = .instr .msFrom
      ∧ (off k = s.spanLen →
          ∃ t, exec .msFrom s = .next t
            ∧ t = { s with ms := t.ms, log := t.log, draws := t.draws }
            ∧ t.ms.samples
                = (List.range k).map (fun i =>
                    { flag := s.params.msLayout.flag.get (spanWord s (off i)) 4,
                      iSample := s.params.msLayout.index.get (spanWord s (off i)) 11, soi := msSoi s (off i),
                      length := s.params.msLayout.length.get (spanWord s (off i)) 16, packet := (u i).econd })
            ∧ t.ms.iSoi = (((List.range k).find? fun i => msSoi s (off i)).map fun i => (i : Int)).getD (-1)
            ∧ (t.log.hdrWarn = true ↔ s.log.hdrWarn = true ∨ ∃ i, i < k ∧ (u i).log.hdrWarn = true)
            ∧ (t.log.invalidCode = true ↔ s.log.invalidCode = true ∨ ∃ i, i < k ∧ (u i).log.invalidCode = true)
            ∧ t.log.codeErr = s.log.codeErr ∧ t.log.syncWarn = s.log.syncWarn ∧ t.log.badCmd = s.log.badCmd)
      ∧ (off k < s.spanLen → k = s.params.maxSamples → TakesError .msFrom s .badFormat (off k))
      ∧ (off k < s.spanLen → k < s.params.maxSamples → s.spanLen < off k + 1 + msLength s (off k) →
          TakesError .msFrom s .lengthError (off k))
      ∧ ∀ v e, off k < s.spanLen → k < s.params.maxSamples → off k + 1 + msLength s (off k) ≤ s.spanLen →
          exec .econdFrom
              { withSpan (s.spanBase + off k + 1) (msLength s (off k)) s with
                draws := if k = 0 then s.draws else (u (k - 1)).draws } = .next v →
          v.fault = some e → TakesError .msFrom s e v.faultInfo.toNat

/-- An `MS.HDR` word walked at a word boundary with its packet behind it: the next sample of `MS`, the cursor past the
packet (log 3, with the group of R231, R233). -/
def Obligations.MsHdrElementAddsSample : Prop :=
  ∀ (s u : State) (flag : BitVec 4) (iSample : BitVec 11) (soi : Bool) (length : BitVec 16), WordAhead s →
    s.p % 32 = 0 → s.ms.samples.length < s.params.maxSamples → s.p / 32 + 1 + length.toNat ≤ s.spanLen →
    exec .econdFrom (withSpan (s.spanBase + s.p / 32 + 1) length.toNat s) = .next u → u.fault = none →
      exec (.msHdr flag iSample soi length) s
        = .next
            { s with
              p := s.p + 32 + 32 * length.toNat,
              ms :=
                { samples := s.ms.samples ++ [⟨flag, iSample, soi, length, u.econd⟩],
                  iSoi := if soi = true ∧ s.ms.iSoi = -1 then (s.ms.samples.length : Int) else s.ms.iSoi },
              log := u.log, draws := u.draws }

/-- `MS_FROM` on whole groups whose packets fit completes with one sample a group, in order, each with its header fields and
its packet's header; and so does an `MS.HDR` word walked at a word boundary with such a packet behind it, which adds its one
sample (R230 to R233; the walk is log 3). -/
def Obligations.MsGroupsComplete : Prop :=
  (∀ (s : State) (k : Nat) (off : Nat → Nat), Ready s → k ≤ s.params.maxSamples → off 0 = 0 → off k = s.spanLen →
      (∀ i, i < k →
        off (i + 1) = off i + 1 + msLength s (off i) ∧ PacketFits s (off i + 1) (msLength s (off i))) →
      ∃ t, exec .msFrom s = .next t
        ∧ t = { s with ms := t.ms, log := t.log, draws := t.draws }
        ∧ t.ms.samples.length = k
        ∧ ∀ i, i < k →
            ∃ x, t.ms.samples[i]? = some x
              ∧ x.flag = s.params.msLayout.flag.get (spanWord s (off i)) 4
              ∧ x.iSample = s.params.msLayout.index.get (spanWord s (off i)) 11
              ∧ x.soi = msSoi s (off i) ∧ x.length.toNat = msLength s (off i)
              ∧ EcondHeaderOf x.packet (spanWord s (off i + 1)) (spanWord s (off i + 2)))
    ∧ ∀ (s : State) (flag : BitVec 4) (iSample : BitVec 11) (soi : Bool) (length : BitVec 16), WordAhead s →
        s.p % 32 = 0 → s.ms.samples.length < s.params.maxSamples → PacketFits s (s.p / 32 + 1) length.toNat →
        ∃ t x, exec (.msHdr flag iSample soi length) s = .next t
          ∧ t = { s with p := s.p + 32 + 32 * length.toNat, ms := t.ms, log := t.log, draws := t.draws }
          ∧ t.ms.samples = s.ms.samples ++ [x]
          ∧ x.flag = flag ∧ x.iSample = iSample ∧ x.soi = soi ∧ x.length = length
          ∧ EcondHeaderOf x.packet (spanWord s (s.p / 32 + 1)) (spanWord s (s.p / 32 + 2))

/-! ### Single-ROC packets -/

/-- `ROC_FROM` on a packet whose DAQ slices are 40 words and whose slices fit: the table, the two DAQ links as `DAQ_FROM`
decodes their slices, the trigger slices' offsets and nothing of their content (R240 to R246, R110). -/
def Obligations.RocFromAssembles : Prop :=
  ∀ (s : State), Ready s → 4 ≤ s.spanLen → (spanWord s 0).toNat = s.spanLen → tableLen s 0 = 40 →
    tableLen s 1 = 40 → tableOff s 6 ≤ s.spanLen →
    decode s.params (.cmd 0x1B#6) = .instr .rocFrom
      ∧ ∃ t u0 u1, exec .rocFrom s = .next t
        ∧ exec .daqFrom (withSpan (s.spanBase + 4) 40 s) = .next u0
        ∧ exec .daqFrom (withSpan (s.spanBase + 44) 40 s) = .next u1
        ∧ t = { s with
                roc := t.roc, log := { s.log with hdrWarn := u0.log.hdrWarn || u1.log.hdrWarn } }
        ∧ t.roc.totalLen = spanWord s 0
        ∧ (∀ i (hi : i < 6), t.roc.linkLen[i].toNat = tableLen s i)
        ∧ t.roc.daq = #v[u0.daq, u1.daq]
        ∧ t.roc.trig = Vector.replicate 4 Trigf.zero
        ∧ (∀ j (hj : j < 4), t.roc.trigOff[j] = tableOff s (2 + j))
        ∧ t.roc.endOff = tableOff s 6

/-- The faults of `ROC_FROM` in the order they are tested (R248, R241 to R244). -/
def Obligations.RocFaultsInOrder : Prop :=
  ∀ (s : State), Ready s →
    (s.spanLen = 0 → TakesError .rocFrom s .lengthError 0)
      ∧ (1 ≤ s.spanLen → (spanWord s 0).toNat ≠ s.spanLen → TakesError .rocFrom s .badLength s.spanLen)
      ∧ (1 ≤ s.spanLen → (spanWord s 0).toNat = s.spanLen → s.spanLen < 4 →
          TakesError .rocFrom s .lengthError s.spanLen)
      ∧ ∀ i, (spanWord s 0).toNat = s.spanLen → 4 ≤ s.spanLen → i < 6 → tableOff s i ≤ s.spanLen →
          (∀ j, j < i → j < 2 → tableLen s j = 40) →
          (s.spanLen < tableOff s (i + 1) → TakesError .rocFrom s .lengthError i)
            ∧ (tableOff s (i + 1) ≤ s.spanLen → i < 2 → tableLen s i ≠ 40 →
                TakesError .rocFrom s .badLength (tableLen s i))

/-! ### The formatter -/

/-- The write primitive (R256): the bits written read back, every bit before them is as it was, and what follows them in
the last word reads 0 if it did before or the word is new; no other byte changes. -/
def Obligations.WriteBitsReadBack : Prop :=
  ∀ (n v : Nat) (f : BitBuf), Memory.wf f.mem = true →
    (∀ q, f.op ≤ q → q < 32 * ((f.op + 31) / 32) → bufBit f.mem q = false) →
    let g := writeBits n v f
    g.op = f.op + n ∧ Memory.wf g.mem = true
      ∧ (∀ k, k < n → bufBit g.mem (f.op + k) = v.testBit (n - 1 - k))
      ∧ (∀ q, q < f.op → bufBit g.mem q = bufBit f.mem q)
      ∧ (∀ q, f.op + n ≤ q → q < 32 * ((f.op + n + 31) / 32) → bufBit g.mem q = false)
      ∧ (∀ a, 4 * ((f.op + n + 31) / 32) ≤ a → Memory.readByte g.mem a = Memory.readByte f.mem a)

/-- `FMT_START`: the two header words, the counters and `FMT_OPEN`; no other byte of `OBUF` changes (R257). An output buffer
has room for them (R4; `Params.wf`). -/
def Obligations.FmtStartWritesHeader : Prop :=
  ∀ (s : State), Idle s → 2 ≤ s.params.obufWords → Memory.wf s.obuf = true →
    decode s.params (.cmd 0x1C#6) = .instr .fmtStart
      ∧ ∃ m, exec .fmtStart s
            = .next { s with obuf := m, olen := 2, op := 64, fmtOpen := true, fmtNlinks := 0 }
        ∧ Memory.wf m = true
        ∧ Memory.readWord m 0 = s.params.econdMarker ++ 0#23
        ∧ Memory.readWord m 1
            = s.arg0.extractLsb' 0 12 ++ s.arg1.extractLsb' 0 6 ++ s.arg2.extractLsb' 0 3 ++ 0#11
        ∧ sameBytesOutside 0 8 s.obuf m

/-- `FMT_ADD` writes a sub-packet of the length R262 gives, padded with zero bits, and `ERX_UNPACK` on its words gives back
the common modes, all 37 slots present and every slot's `canon` (R258 to R263, R196). -/
def Obligations.FmtAddInverseOfErxUnpack : Prop :=
  ∀ (s : State), Ready s → FmtReady s → arg0Nat s = s.fmtNlinks → arg0Nat s ≤ 11 → s.spanLen = 40 →
    s.op + 32 * 39 ≤ 32 * s.params.obufWords →
    let n := (formattedBits s + 31) / 32
    decode s.params (.cmd 0x1D#6) = .instr .fmtAdd
      ∧ 21 ≤ n ∧ n ≤ 39
      ∧ ∃ m, exec .fmtAdd s
            = .next
                { s with
                  obuf := m, op := s.op + 32 * n, olen := s.olen + n, fmtNlinks := s.fmtNlinks + 1 }
        ∧ Memory.wf m = true
        ∧ sameBytesOutside (4 * (s.op / 32)) (4 * n) s.obuf m
        ∧ (∀ q, s.op + formattedBits s ≤ q → q < s.op + 32 * n → bufBit m q = false)
        ∧ ∀ u : State, Ready u → u.spanLen = n → argPassthrough u = false →
            (∀ i, i < n → spanWord u i = Memory.readWord m (s.op / 32 + i)) →
            ∃ d : Link,
              exec .erxUnpack u
                  = .next
                      { u with
                        erx := d, erxConsumed := n, p := 32 * n,
                        log := { u.log with invalidCode := u.log.invalidCode || hasInvalidCode d } }
                ∧ d.stat = s.params.fmtStat ∧ d.ham = s.params.fmtHam ∧ d.isEmpty = false
                ∧ d.adcCm0 = (spanWord s 1).extractLsb' 10 10 ∧ d.adcCm1 = (spanWord s 1).extractLsb' 0 10
                ∧ d.chmap = BitVec.allOnes 37
                ∧ (∀ k, k < 37 → loadSlot d k = canon s.cfgZsEn (spanWord s (2 + k)))
                ∧ (hasInvalidCode d = true ↔
                    ∃ k, k < 37 ∧ (spanWord s (2 + k)).extractLsb' 30 2 = 0b10#2)

/-- `FMT_FINISH` in both forms: the placeholder trailer, or the length, CRC-8 and CRC-32 filled in (R264, R265). -/
def Obligations.FmtFinishClosesPacket : Prop :=
  ∀ (s : State), Idle s → FmtReady s → s.op + 32 ≤ 32 * s.params.obufWords →
    decode s.params (.cmd 0x1E#6) = .instr .fmtFinish
      ∧ ∃ m, exec .fmtFinish s
            = .next { s with obuf := m, op := s.op + 32, olen := s.olen + 1, fmtOpen := false }
        ∧ Memory.wf m = true
        ∧ (s.params.fmtFidelity = .sourcePlaceholder →
            Memory.readWord m s.olen = 0xFFFFFFFF#32 ∧ sameBytesOutside (4 * s.olen) 4 s.obuf m)
        ∧ (s.params.fmtFidelity = .bitExact →
            let w0 := Memory.readWord s.obuf 0 ||| BitVec.ofNat 32 ((s.olen - 1) % 512 * 2 ^ 14)
            let w1 := Memory.readWord s.obuf 1
            Memory.readWord m 0 = w0
              ∧ Memory.readWord m 1
                  = w1 ||| (crc8Of s.params.crc8Poly (crc8Base s.params.crc8Base w0 w1)).setWidth 32
              ∧ Memory.readWord m s.olen
                  = crc32Of ((List.range (s.olen - 2)).map fun k => Memory.readWord s.obuf (2 + k))
              ∧ ∀ a, 8 ≤ a → a < 4 * s.olen ∨ 4 * s.olen + 4 ≤ a →
                  Memory.readByte m a = Memory.readByte s.obuf a)

/-- The call order and the arguments the formatter rejects, in the order they are tested; each closes the packet
(R268, R258, R264, R303). -/
def Obligations.FmtOrderRaises : Prop :=
  ∀ (s : State), Ready s →
    (s.fmtOpen = false → TakesError .fmtAdd s .badFormat 0 ∧ TakesError .fmtFinish s .badFormat 0)
      ∧ (s.fmtOpen = true → arg0Nat s ≠ s.fmtNlinks ∨ 11 < arg0Nat s →
          TakesError .fmtAdd s .badFormat (arg0Nat s))
      ∧ (s.fmtOpen = true → arg0Nat s = s.fmtNlinks → arg0Nat s ≤ 11 → s.spanLen ≠ 40 →
          TakesError .fmtAdd s .badLength s.spanLen)
      ∧ (s.fmtOpen = true → 32 * s.params.obufWords < s.op + 32 → TakesError .fmtFinish s .lengthError s.op)
      ∧ (s.fmtOpen = true → arg0Nat s = s.fmtNlinks → arg0Nat s ≤ 11 → s.spanLen = 40 →
          s.op = 32 * s.params.obufWords → TakesError .fmtAdd s .lengthError s.op)

/-- The pseudo-elements expand into the host's frame (R89; the frame itself is log 17), a fault pending or not: `PAD` into
zero bits up to the word boundary, `RAW` into a literal word, `CRC32` into the CRC-32 of words already written, `CRC8` into
the header CRC-8 in word 1's low byte; where R89 gives no value the word or byte is free (log 17). Nothing else changes. -/
def Obligations.PseudoElementsWriteFrame : Prop :=
  ∀ (s : State), Memory.wf s.frame.mem = true →
    (∃ m, exec .pad s = .next { s with frame := ⟨m, 32 * ((s.frame.op + 31) / 32)⟩ } ∧ Memory.wf m = true
        ∧ (∀ q, s.frame.op ≤ q → q < 32 * ((s.frame.op + 31) / 32) → bufBit m q = false)
        ∧ ∀ q, q < s.frame.op ∨ 32 * ((s.frame.op + 31) / 32) ≤ q → bufBit m q = bufBit s.frame.mem q)
      ∧ (∀ word, ∃ m, exec (.raw word) s = .next { s with frame := ⟨m, s.frame.op + 32⟩ } ∧ AppendsWord s word m)
      ∧ (∀ a b, b < a ∨ b < s.frame.op / 32 →
          ∃ m, exec (.crc32 a b) s = .next { s with frame := ⟨m, s.frame.op + 32⟩ }
            ∧ AppendsWord s (crc32Of ((List.range (b + 1 - a)).map fun k => Memory.readWord s.frame.mem (a + k))) m)
      ∧ (∀ a b, a ≤ b → s.frame.op / 32 ≤ b →
          ∃ m w, exec (.crc32 a b) s = .next { s with frame := ⟨m, s.frame.op + 32⟩, draws := s.draws + 1 }
            ∧ AppendsWord s w m)
      ∧ (2 ≤ s.frame.op / 32 →
          ∃ m, exec .crc8 s = .next { s with frame := ⟨m, s.frame.op⟩ } ∧ Memory.wf m = true
            ∧ Memory.readByte m 7
                = headerCrc8 s.params (Memory.readWord s.frame.mem 0) (Memory.readWord s.frame.mem 1)
            ∧ sameBytesOutside 7 1 s.frame.mem m)
      ∧ (s.frame.op / 32 < 2 →
          ∃ m, exec .crc8 s = .next { s with frame := ⟨m, s.frame.op⟩, draws := s.draws + 1 } ∧ Memory.wf m = true
            ∧ sameBytesOutside 7 1 s.frame.mem m)

/-- The round trip of the whole packet (R267): 1 to 12 source frames formatted and decoded with as many links give back
the event numbers, the common modes and every slot's `canon`, using every word; the bit-exact form passes both checks. -/
def Obligations.FormatThenDecodeRoundTrip : Prop :=
  ∀ (s : State) (spans : List (List Word)), s.Inv → Idle s → 1 ≤ spans.length → spans.length ≤ 12 →
    (∀ ws, ws ∈ spans → ws.length = 40) → 40 ≤ s.params.ibufWords →
    2 + 39 * spans.length + 1 ≤ s.params.obufWords →
    ∃ a b c, exec .fmtStart s = .next a ∧ AddLinks spans 0 a b ∧ exec .fmtFinish b = .next c ∧ c.fault = none
      ∧ ∀ d : State, Ready d → d.params = s.params → d.cfgNlinks.toNat = spans.length → d.spanLen = c.olen →
          (∀ i, i < c.olen → spanWord d i = Memory.readWord c.obuf i) →
          ∃ e, exec .econdFrom d = .next e ∧ e.fault = none
            ∧ e.econd.bx = s.arg0.extractLsb' 0 12 ∧ e.econd.l1a = s.arg1.extractLsb' 0 6
            ∧ e.econd.orbit = s.arg2.extractLsb' 0 3
            ∧ e.econd.passthrough = false ∧ e.econd.truncated = false ∧ e.econd.nwords = c.olen
            ∧ e.econd.links.length = spans.length
            ∧ (∀ (i : Nat) (ws : List Word) (l : Link), spans[i]? = some ws → e.econd.links[i]? = some l →
                l.adcCm0 = (ws.getD 1 0#32).extractLsb' 10 10 ∧ l.adcCm1 = (ws.getD 1 0#32).extractLsb' 0 10
                  ∧ l.chmap = BitVec.allOnes 37 ∧ l.isEmpty = false
                  ∧ ∀ k, k < 37 → loadSlot l k = canon s.cfgZsEn (ws.getD (2 + k) 0#32))
            ∧ (s.params.fmtFidelity = .bitExact →
                e.econd.corruption[2] = false ∧ e.econd.corruption[3] = false
                  ∧ e.econd.length.toNat = (c.olen - 2) % 512)

/-! ### The stream -/

/-- `SCAN_ROC` with a start pair and a whole window ahead, the first pair there is: the window in `IBUF`, the span on all of
it, `RES = 1`, the stream just after the window; no byte of `IBUF` after the window changes (R281, R282, R283). -/
def Obligations.ScanRocFindsWindow : Prop :=
  ∀ (s : State) (pre body : List Word) (n : Word), Idle s → Memory.wf s.ibuf = true →
    StreamAhead s (pre ++ [0x11888811#32, 0xBEEF2025#32, n] ++ body) →
    (∀ j, j < pre.length → ¬ RocStartAt s j) →
    1 ≤ n.toNat → n.toNat ≤ s.params.maxWindow → body.length + 1 = n.toNat →
    decode s.params (.cmd 0x20#6) = .instr .scanRoc
      ∧ OpensWindow .scanRoc s (n :: body) (pre.length + 2 + n.toNat)

/-- `SCAN_MS`: the same after the one start word, the prefix consumed and not in the window; a prefix of 0 gives an empty
span (R286, R287, R288). -/
def Obligations.ScanMsFindsWindow : Prop :=
  ∀ (s : State) (pre body : List Word) (n : Word), Idle s → Memory.wf s.ibuf = true →
    StreamAhead s (pre ++ [0xB33F2025#32, n] ++ body) → (∀ j, j < pre.length → ¬ MsStartAt s j) →
    n.toNat ≤ s.params.maxWindow → body.length = n.toNat →
    decode s.params (.cmd 0x21#6) = .instr .scanMs
      ∧ OpensWindow .scanMs s body (pre.length + 2 + n.toNat)

/-- A scan that opens no window. No start marker before the end of a finite stream: `RES = 0`, `STRM_EOF = 1`, every word
consumed, nothing else changed. A start marker with no packet behind it: a length word out of range raises `BadLength` with
only that word consumed; a stream that ends raises `LengthError` with the number of words consumed; the span is cleared
(R281, R284, R286, R289, R303). -/
def Obligations.ScansWithoutWindow : Prop :=
  ∀ (s : State), Idle s → (s.strm.cycle = [] → s.strmPos ≤ s.strm.words.length) →
    (s.strm.cycle = [] → (∀ j, ¬ RocStartAt s j) →
        exec .scanRoc s = .next { s with res := 0#32, strmPos := s.strm.words.length, strmEof := true })
      ∧ (s.strm.cycle = [] → (∀ j, ¬ MsStartAt s j) →
        exec .scanMs s = .next { s with res := 0#32, strmPos := s.strm.words.length, strmEof := true })
      ∧ (∀ j, RocStartAt s j → (∀ k, k < j → ¬ RocStartAt s k) →
          (∀ n, s.strm.word (s.strmPos + j + 2) = some n → n.toNat = 0 ∨ s.params.maxWindow < n.toNat →
              TakesError .scanRoc s .badLength n.toNat
                ∧ ∀ t, exec .scanRoc s = .next t → t.strmPos = s.strmPos + j + 3)
            ∧ (s.strm.cycle = [] →
                s.strm.word (s.strmPos + j + 2) = none
                  ∨ (∃ n, s.strm.word (s.strmPos + j + 2) = some n ∧ n.toNat ≤ s.params.maxWindow
                      ∧ s.strm.words.length < s.strmPos + j + 2 + n.toNat) →
                TakesError .scanRoc s .lengthError s.strm.words.length
                  ∧ ∀ t, exec .scanRoc s = .next t → t.strmPos = s.strm.words.length ∧ t.strmEof = true))
      ∧ ∀ j, MsStartAt s j → (∀ k, k < j → ¬ MsStartAt s k) →
          (∀ n, s.strm.word (s.strmPos + j + 1) = some n → s.params.maxWindow < n.toNat →
              TakesError .scanMs s .badLength n.toNat
                ∧ ∀ t, exec .scanMs s = .next t → t.strmPos = s.strmPos + j + 2)
            ∧ (s.strm.cycle = [] →
                s.strm.word (s.strmPos + j + 1) = none
                  ∨ (∃ n, s.strm.word (s.strmPos + j + 1) = some n ∧ n.toNat ≤ s.params.maxWindow
                      ∧ s.strm.words.length < s.strmPos + j + 2 + n.toNat) →
                TakesError .scanMs s .lengthError s.strm.words.length
                  ∧ ∀ t, exec .scanMs s = .next t → t.strmPos = s.strm.words.length ∧ t.strmEof = true)

/-- The stream is read by the two scans alone (R40, R46, R291). A walk at a place of the stream is the scan that meets the
words there, whatever it meets; a marker or a length prefix, with that word standing next or behind the start marker, is
that scan; and so it opens the window the scan opens, or meets the end as the scan does (R281, R282, R285 to R288; that
such words are walked at all is log 3). -/
def Obligations.StreamElementsRunTheScan : Prop :=
  ∀ (s : State),
    (∀ rest, s.script = .walk (.scan .roc) :: rest → step s = exec .scanRoc { s with script := rest })
      ∧ (∀ rest, s.script = .walk (.scan .ms) :: rest → step s = exec .scanMs { s with script := rest })
      ∧ (∀ rest, s.script = .walk .msPrefix :: rest → step s = exec .scanMs { s with script := rest })
      ∧ (∀ x ∈ rocMarkers, s.strm.word s.strmPos = some x.2 →
          exec x.1 s = exec .scanRoc s
            ∧ ∀ (pre body : List Word) (n : Word), Idle s → Memory.wf s.ibuf = true →
                StreamAhead s (pre ++ [0x11888811#32, 0xBEEF2025#32, n] ++ body) →
                (∀ j, j < pre.length → ¬ RocStartAt s j) →
                1 ≤ n.toNat → n.toNat ≤ s.params.maxWindow → body.length + 1 = n.toNat →
                OpensWindow x.1 s (n :: body) (pre.length + 2 + n.toNat))
      ∧ (∀ x ∈ msMarkers, s.strm.word s.strmPos = some x.2 →
          exec x.1 s = exec .scanMs s
            ∧ ∀ (pre body : List Word) (n : Word), Idle s → Memory.wf s.ibuf = true →
                StreamAhead s (pre ++ [0xB33F2025#32, n] ++ body) → (∀ j, j < pre.length → ¬ MsStartAt s j) →
                n.toNat ≤ s.params.maxWindow → body.length = n.toNat →
                OpensWindow x.1 s body (pre.length + 2 + n.toNat))
      ∧ (∀ j n, MsStartAt s j → (∀ k, k < j → ¬ MsStartAt s k) → s.strm.word (s.strmPos + j + 1) = some n →
          exec (.msPrefix n) s = exec .scanMs s
            ∧ ∀ body : List Word, Idle s → Memory.wf s.ibuf = true →
                (∀ k w, body[k]? = some w → s.strm.word (s.strmPos + j + 2 + k) = some w) →
                n.toNat ≤ s.params.maxWindow → body.length = n.toNat →
                OpensWindow (.msPrefix n) s body (j + 2 + n.toNat))

/-! ### Reset and invariants -/

/-- Every piece of state to which the table of R30 gives a value, in a state `t`, with `CFG_NLINKS` at `N_LINKS`. The reset
input puts them there from any state, a pending fault included (R330), and so does the state after reset (R331). What the
reset input keeps (parameters, stream, script, the host's frame, count of free values) is log 19. -/
def Obligations.ResetRestoresTable : Prop :=
  let Table (t : State) : Prop :=
    t.ilen = 0 ∧ t.spanBase = 0 ∧ t.spanLen = 0 ∧ t.p = 0
      ∧ t.samp = ⟨false, false, 0, 0, 0, 0, 0#32⟩
      ∧ t.daq = Link.zero ∧ t.erx = Link.zero ∧ t.erxConsumed = 0 ∧ t.trig = Trigf.zero
      ∧ t.roc = ⟨0#32, Vector.replicate 6 0#16, Vector.replicate 2 Link.zero, Vector.replicate 4 Trigf.zero,
          Vector.replicate 4 0, 0⟩
      ∧ t.econd = Econd.zero t.params.nLinks
      ∧ t.ms.nSamples = 0 ∧ t.ms.iSoi = -1 ∧ t.res = 0#32 ∧ t.crc32 = 0#32 ∧ t.crc8 = 0#8
      ∧ t.olen = 0 ∧ t.op = 0 ∧ t.fmtOpen = false ∧ t.fmtNlinks = 0
      ∧ t.log = ⟨false, false, false, false, false⟩ ∧ t.cmd = 0#6
      ∧ t.arg0 = 0#32 ∧ t.arg1 = 0#32 ∧ t.arg2 = 0#32 ∧ t.arg3 = 0#32
      ∧ t.fault = none ∧ t.faultInfo = 0#32 ∧ t.faultOp = 0#6
      ∧ (t.params.wf = true → t.cfgNlinks.toNat = t.params.nLinks)
      ∧ t.cfgZsEn = true ∧ t.strmPos = 0 ∧ t.strmEof = false
  Table State.reset
    ∧ ∀ (s : State) (rest : List HostAction), s.script = .reset :: rest →
        ∃ t, step s = .next t ∧ Table t
          ∧ t.params = s.params ∧ t.strm = s.strm ∧ t.script = rest ∧ t.frame = s.frame ∧ t.draws = s.draws

/-- The invariant holds at reset. -/
def Obligations.InvHoldsAtReset : Prop := State.reset.Inv

/-- Every step keeps the invariant: the buffers stay in canonical form, the cursors and the lengths within their buffers,
`CFG_NLINKS` legal, no fault number without a fault, `code_err` 0, the sample count within its bound (R11, R12, R20, R24,
R27, R28, R193). -/
def Obligations.StepKeepsInv : Prop :=
  ∀ (s t : State), s.Inv → step s = .next t → t.Inv

/-- Every step leaves the parameters and the stream alone (R4, R280, R333), takes at most one host action, and, but for
reset, consumes stream words and never gives one back (R46, R291). -/
def Obligations.StepKeepsEnvironment : Prop :=
  ∀ (s t : State), step s = .next t →
    t.params = s.params ∧ t.strm = s.strm ∧ t.script = s.script.tail
      ∧ (s.script.head? ≠ some .reset → s.strmPos ≤ t.strmPos ∧ (s.strmEof = true → t.strmEof = true))
end

