-- ==== Sys2Proof/Laws/Memory.lean ====
section
/-! SUPPORT. The laws of the buffers: read after write, and every memory operation keeps the canonical form. -/

namespace Sys2Proof.Machine

/-! ### The canonical form -/

theorem Memory.wf_cons {a : Nat} {v : Byte} {t : Memory} :
    Memory.wf ((a, v) :: t) = true ↔ v ≠ Memory.unlisted ∧ (∀ c ∈ t, a < c.1) ∧ Memory.wf t = true := by
  simp [Memory.wf, and_assoc]

theorem Memory.readByte_of_below {m : Memory} {a : Nat} (h : ∀ c ∈ m, a < c.1) :
    Memory.readByte m a = Memory.unlisted := by
  induction m with
  | nil => rfl
  | cons c t ih =>
    have hc : a ≠ c.1 := Nat.ne_of_lt (h c (by simp))
    simp only [Memory.readByte, hc, if_false]
    exact ih fun d hd => h d (by simp [hd])

/-- A bound on the written address and on a memory's addresses bounds the written memory's. -/
theorem Memory.writeByte_bound {m : Memory} {a b : Nat} {v : Byte} (hb : b < a) (h : ∀ c ∈ m, b < c.1) :
    ∀ c ∈ Memory.writeByte m a v, b < c.1 := by
  induction m with
  | nil => unfold Memory.writeByte; split <;> simp_all
  | cons c t ih =>
    have ht := ih fun d hd => h d (by simp [hd])
    have hc := h c (by simp)
    unfold Memory.writeByte
    split <;> (try split) <;> (try split) <;> simp_all <;> assumption

theorem Memory.wf_writeByte {m : Memory} (h : Memory.wf m = true) (a : Nat) (v : Byte) :
    Memory.wf (Memory.writeByte m a v) = true := by
  induction m with
  | nil => unfold Memory.writeByte; split <;> simp_all [Memory.wf]
  | cons c t ih =>
    obtain ⟨b, u⟩ := c
    obtain ⟨hu, hlt, ht⟩ := Memory.wf_cons.1 h
    unfold Memory.writeByte
    by_cases hab : a < b
    · rw [if_pos hab]
      split
      · exact h
      · refine Memory.wf_cons.2 ⟨‹_›, fun c hc => ?_, h⟩
        rcases List.mem_cons.1 hc with rfl | hc
        · exact hab
        · exact hab.trans (hlt c hc)
    · rw [if_neg hab]
      by_cases he : a = b
      · subst he
        rw [if_pos rfl]
        split
        · exact ht
        · exact Memory.wf_cons.2 ⟨‹_›, hlt, ht⟩
      · rw [if_neg he]
        exact Memory.wf_cons.2 ⟨hu, Memory.writeByte_bound (by omega) hlt, ih ht⟩

/-! ### Read after write -/

theorem Memory.readByte_writeByte_same {m : Memory} (h : Memory.wf m = true) (a : Nat) (v : Byte) :
    Memory.readByte (Memory.writeByte m a v) a = v := by
  induction m with
  | nil => unfold Memory.writeByte; split <;> simp_all [Memory.readByte]
  | cons c t ih =>
    obtain ⟨b, u⟩ := c
    obtain ⟨-, hlt, ht⟩ := Memory.wf_cons.1 h
    unfold Memory.writeByte
    by_cases hab : a < b
    · rw [if_pos hab]
      split
      · rename_i hv
        rw [hv]
        refine Memory.readByte_of_below fun c hc => ?_
        rcases List.mem_cons.1 hc with rfl | hc
        · exact hab
        · exact hab.trans (hlt c hc)
      · simp [Memory.readByte]
    · rw [if_neg hab]
      by_cases he : a = b
      · subst he
        rw [if_pos rfl]
        split
        · rename_i hv
          rw [hv]
          exact Memory.readByte_of_below hlt
        · simp [Memory.readByte]
      · simp only [he, if_false, Memory.readByte]
        exact ih ht

theorem Memory.readByte_writeByte_other (m : Memory) {a c : Nat} (hac : c ≠ a) (v : Byte) :
    Memory.readByte (Memory.writeByte m a v) c = Memory.readByte m c := by
  induction m with
  | nil => unfold Memory.writeByte; split <;> simp [Memory.readByte, hac]
  | cons d t ih =>
    obtain ⟨b, u⟩ := d
    unfold Memory.writeByte
    by_cases hab : a < b
    · rw [if_pos hab]
      split
      · rfl
      · simp [Memory.readByte, hac]
    · rw [if_neg hab]
      by_cases he : a = b
      · subst he
        rw [if_pos rfl]
        split <;> simp [Memory.readByte, hac]
      · simp only [he, if_false, Memory.readByte, ih]

/-- Equal reads make equal buffers: the form is canonical. -/
theorem Memory.eq_of_reads {m n : Memory} (hm : Memory.wf m = true) (hn : Memory.wf n = true)
    (h : ∀ a, Memory.readByte m a = Memory.readByte n a) : m = n := by
  induction m generalizing n with
  | nil =>
    cases n with
    | nil => rfl
    | cons c t =>
      have := h c.1
      simp only [Memory.readByte, if_true] at this
      exact absurd this.symm (Memory.wf_cons.1 hn).1
  | cons c t ih =>
    obtain ⟨a, v⟩ := c
    obtain ⟨hv, hlt, ht⟩ := Memory.wf_cons.1 hm
    cases n with
    | nil =>
      have := h a
      simp only [Memory.readByte, if_true] at this
      exact absurd this hv
    | cons d u =>
      obtain ⟨b, w⟩ := d
      obtain ⟨hw, hlt', hu⟩ := Memory.wf_cons.1 hn
      have hab : a = b := by
        rcases Nat.lt_trichotomy a b with hab | hab | hab
        · have hbelow : Memory.readByte ((b, w) :: u) a = Memory.unlisted :=
            Memory.readByte_of_below fun c hc => by
              rcases List.mem_cons.1 hc with rfl | hc
              · exact hab
              · exact hab.trans (hlt' c hc)
          have := (h a).trans hbelow
          simp only [Memory.readByte, if_true] at this
          exact absurd this hv
        · exact hab
        · have hbelow : Memory.readByte ((a, v) :: t) b = Memory.unlisted :=
            Memory.readByte_of_below fun c hc => by
              rcases List.mem_cons.1 hc with rfl | hc
              · exact hab
              · exact hab.trans (hlt c hc)
          have := (h b).symm.trans hbelow
          simp only [Memory.readByte, if_true] at this
          exact absurd this hw
      subst hab
      have hvw : v = w := by simpa [Memory.readByte] using h a
      have htu : t = u := ih ht hu fun x => by
        by_cases hx : x = a
        · subst hx
          rw [Memory.readByte_of_below hlt, Memory.readByte_of_below hlt']
        · simpa [Memory.readByte, hx] using h x
      rw [hvw, htu]

/-! ### Words -/

theorem Memory.wf_writeWord {m : Memory} (h : Memory.wf m = true) (i : Nat) (w : Word) :
    Memory.wf (Memory.writeWord m i w) = true :=
  Memory.wf_writeByte (Memory.wf_writeByte (Memory.wf_writeByte (Memory.wf_writeByte h _ _) _ _) _ _) _ _

theorem Memory.wf_writeWords {m : Memory} (h : Memory.wf m = true) (i : Nat) (ws : List Word) :
    Memory.wf (Memory.writeWords m i ws) = true := by
  induction ws generalizing m i with
  | nil => exact h
  | cons w ws ih => exact ih (Memory.wf_writeWord h i w) (i + 1)

theorem Memory.wf_ofCells (limit : Nat) (cs : List Host.Cell) : Memory.wf (Memory.ofCells limit cs) = true := by
  induction cs with
  | nil => rfl
  | cons c t ih =>
    unfold Memory.ofCells
    split
    · exact Memory.wf_writeByte ih _ _
    · exact ih

/-- The four bytes of a word written read as the word's, most significant first (R42). -/
theorem Memory.readByte_writeWord_at {m : Memory} (h : Memory.wf m = true) (i : Nat) (w : Word) :
    Memory.readByte (Memory.writeWord m i w) (4 * i) = w.extractLsb' 24 8
      ∧ Memory.readByte (Memory.writeWord m i w) (4 * i + 1) = w.extractLsb' 16 8
      ∧ Memory.readByte (Memory.writeWord m i w) (4 * i + 2) = w.extractLsb' 8 8
      ∧ Memory.readByte (Memory.writeWord m i w) (4 * i + 3) = w.extractLsb' 0 8 := by
  have h1 := Memory.wf_writeByte h (4 * i) (w.extractLsb' 24 8)
  have h2 := Memory.wf_writeByte h1 (4 * i + 1) (w.extractLsb' 16 8)
  have h3 := Memory.wf_writeByte h2 (4 * i + 2) (w.extractLsb' 8 8)
  unfold Memory.writeWord
  refine ⟨?_, ?_, ?_, Memory.readByte_writeByte_same h3 _ _⟩
  · rw [Memory.readByte_writeByte_other _ (by omega), Memory.readByte_writeByte_other _ (by omega),
      Memory.readByte_writeByte_other _ (by omega), Memory.readByte_writeByte_same h]
  · rw [Memory.readByte_writeByte_other _ (by omega), Memory.readByte_writeByte_other _ (by omega),
      Memory.readByte_writeByte_same h1]
  · rw [Memory.readByte_writeByte_other _ (by omega), Memory.readByte_writeByte_same h2]

theorem Memory.readByte_writeWord_outside (m : Memory) {i a : Nat} (ha : a < 4 * i ∨ 4 * i + 4 ≤ a) (w : Word) :
    Memory.readByte (Memory.writeWord m i w) a = Memory.readByte m a := by
  unfold Memory.writeWord
  rw [Memory.readByte_writeByte_other _ (by omega), Memory.readByte_writeByte_other _ (by omega),
    Memory.readByte_writeByte_other _ (by omega), Memory.readByte_writeByte_other _ (by omega)]

/-- A word is its four bytes. -/
theorem word_of_bytes (w : Word) :
    w.extractLsb' 24 8 ++ w.extractLsb' 16 8 ++ w.extractLsb' 8 8 ++ w.extractLsb' 0 8 = w := by
  ext k hk
  simp only [BitVec.getElem_append, BitVec.getElem_extractLsb']
  split <;> (try split) <;> (try split) <;> (rw [← BitVec.getLsbD_eq_getElem]; congr 1; omega)

theorem Memory.readWord_writeWord_same {m : Memory} (h : Memory.wf m = true) (i : Nat) (w : Word) :
    Memory.readWord (Memory.writeWord m i w) i = w := by
  obtain ⟨h0, h1, h2, h3⟩ := Memory.readByte_writeWord_at h i w
  simp only [Memory.readWord, h0, h1, h2, h3, word_of_bytes]

theorem Memory.readWord_writeWord_other (m : Memory) {i j : Nat} (hij : j ≠ i) (w : Word) :
    Memory.readWord (Memory.writeWord m i w) j = Memory.readWord m j := by
  unfold Memory.readWord
  rw [Memory.readByte_writeWord_outside _ (by omega), Memory.readByte_writeWord_outside _ (by omega),
    Memory.readByte_writeWord_outside _ (by omega), Memory.readByte_writeWord_outside _ (by omega)]

/-- Words below the first one written keep their value. -/
theorem Memory.readWord_writeWords_below (m : Memory) {i j : Nat} (hij : j < i) (ws : List Word) :
    Memory.readWord (Memory.writeWords m i ws) j = Memory.readWord m j := by
  induction ws generalizing m i with
  | nil => rfl
  | cons w ws ih => exact (ih _ (by omega)).trans (Memory.readWord_writeWord_other m (by omega) w)

/-- A window written reads back word by word. -/
theorem Memory.readWord_writeWords {m : Memory} (h : Memory.wf m = true) (i : Nat) (ws : List Word) {k : Nat}
    (hk : k < ws.length) : Memory.readWord (Memory.writeWords m i ws) (i + k) = ws[k] := by
  induction ws generalizing m i k with
  | nil => simp at hk
  | cons w ws ih =>
    cases k with
    | zero =>
      exact (Memory.readWord_writeWords_below _ (by omega) ws).trans (Memory.readWord_writeWord_same h i w)
    | succ k =>
      have := ih (Memory.wf_writeWord h i w) (i + 1) (Nat.lt_of_succ_lt_succ hk)
      rw [Nat.add_assoc, Nat.add_comm 1 k] at this
      exact this

@[simp] theorem Memory.length_words (m : Memory) (i n : Nat) : (Memory.words m i n).length = n := by
  simp [Memory.words]

theorem Memory.getD_words (m : Memory) (i n k : Nat) (hk : k < n) :
    (Memory.words m i n).getD k 0#32 = Memory.readWord m (i + k) := by
  simp [Memory.words, List.getD, hk]

/-! ### The span -/

@[simp] theorem length_spanWords (s : State) : (spanWords s).length = s.spanLen := by
  simp [spanWords]

/-- The memories of the state after reset have the canonical form. -/
theorem reset_memories_wf : Memory.wf State.reset.ibuf = true ∧ Memory.wf State.reset.obuf = true := by decide

end Sys2Proof.Machine
end

