-- ==== Sys2Proof/Laws/Codec.lean ====
section
/-! SUPPORT. What every decode does to the `LOG` bits, how far a sub-packet reaches, and how many samples an envelope
may hold: one lemma for each decoding function. -/

namespace Sys2Proof.Machine

/-! ### `LOG` -/

/-- What a decode may do to the `LOG` bits: set some (R25), never `code_err` (R193). -/
abbrev Log.GrowsTo (l l' : Log) : Prop := l.keptIn l' = true ∧ l'.codeErr = l.codeErr

theorem Log.growsTo_refl (l : Log) : l.GrowsTo l := by simp [Log.GrowsTo, Log.keptIn]

theorem Log.GrowsTo.trans {l l' l'' : Log} (h : l.GrowsTo l') (h' : l'.GrowsTo l'') : l.GrowsTo l'' := by
  obtain ⟨a, b, c, d, e⟩ := l
  obtain ⟨a', b', c', d', e'⟩ := l'
  obtain ⟨a'', b'', c'', d'', e''⟩ := l''
  revert a b c d e a' b' c' d' e' a'' b'' c'' d'' e''
  decide +kernel

theorem Log.growsTo_setInvalidCode (l : Log) (b : Bool) : l.GrowsTo (l.setInvalidCode b) := by
  cases h : l.invalidCode <;> simp [Log.GrowsTo, Log.keptIn, Log.setInvalidCode, h]

theorem Log.growsTo_setSyncWarn (l : Log) (b : Bool) : l.GrowsTo (l.setSyncWarn b) := by
  cases h : l.syncWarn <;> simp [Log.GrowsTo, Log.keptIn, Log.setSyncWarn, h]

theorem Log.growsTo_setHdrWarn (l : Log) (b : Bool) : l.GrowsTo (l.setHdrWarn b) := by
  cases h : l.hdrWarn <;> simp [Log.GrowsTo, Log.keptIn, Log.setHdrWarn, h]

theorem Log.growsTo_setBadCmd (l : Log) : l.GrowsTo l.setBadCmd := by
  simp [Log.GrowsTo, Log.keptIn, Log.setBadCmd]

/-- What outlives a decode, whether it ran to completion or raised. -/
def Run.accOf {α : Type} : Run α → Acc
  | .done _ c => c
  | .stop _ c => c

theorem daqFrom_log (pr : Params) (ws : List Word) (c : Acc) : c.log.GrowsTo (daqFrom pr ws c).accOf.log := by
  unfold daqFrom
  split
  · exact Log.growsTo_refl _
  · exact Log.growsTo_setHdrWarn _ _

theorem trigFrom_log (pr : Params) (ws : List Word) (c : Acc) : c.log.GrowsTo (trigFrom pr ws c).accOf.log := by
  unfold trigFrom
  split
  · exact Log.growsTo_refl _
  · exact Log.growsTo_setSyncWarn _ _

theorem unpackSlots_log (o : ChmapOrder) (ws : List Word) (n slot p : Nat) (d : Link) (c : Acc) :
    c.log.GrowsTo (unpackSlots o ws n slot p d c).accOf.log := by
  induction n generalizing slot p d c with
  | zero => exact Log.growsTo_refl _
  | succ n ih =>
    unfold unpackSlots
    split
    · split
      · exact Log.growsTo_refl _
      · rename_i r _
        exact (Log.growsTo_setInvalidCode c.log r.invalid).trans
          (ih (slot + 1) r.next (storeRecord d slot r) { c with log := c.log.setInvalidCode r.invalid })
    · exact ih _ _ _ _

theorem unpackSubpacket_log (pr : Params) (ws : List Word) (pt : Bool) (c : Acc) :
    c.log.GrowsTo (unpackSubpacket pr ws pt c).accOf.log := by
  unfold unpackSubpacket
  dsimp only
  split
  · exact Log.growsTo_refl _
  split
  · exact Log.growsTo_refl _
  split
  · exact Log.growsTo_refl _
  split
  · split <;> exact Log.growsTo_refl _
  · have h := unpackSlots_log pr.chmapOrder ws 37 0 64
      (applyErxHdr1 (wordAt ws 1)
        (applyErxHdr0 ((wordAt ws 0).extractLsb' 29 3) ((wordAt ws 0).extractLsb' 26 3) ((wordAt ws 0).getLsbD 25)
          ((wordAt ws 0).extractLsb' 15 10) ((wordAt ws 0).extractLsb' 5 10) ((wordAt ws 0).extractLsb' 0 5))) c
    split
    · rename_i hr
      rwa [hr] at h
    · rename_i hr
      rwa [hr] at h

theorem unpackLinks_log (pr : Params) (ws : List Word) (e : Econd) (n off : Nat) (c : Acc) :
    c.log.GrowsTo (unpackLinks pr ws e n off c).accOf.log := by
  induction n generalizing off c with
  | zero => exact Log.growsTo_refl _
  | succ n ih =>
    have h := unpackSubpacket_log pr (ws.drop off) e.passthrough c
    unfold unpackLinks
    split
    · rename_i hr
      rwa [hr] at h
    · rename_i d c' hr
      rw [hr] at h
      have h' := ih (off + d.nwords) c'
      split
      · rename_i hr'
        rw [hr'] at h'
        exact h.trans h'
      · rename_i hr'
        rw [hr'] at h'
        exact h.trans h'

theorem econdFrom_log (pr : Params) (n : Nat) (ws : List Word) (c : Acc) :
    c.log.GrowsTo (econdFrom pr n ws c).accOf.log := by
  unfold econdFrom
  dsimp only
  split
  · exact Log.growsTo_refl _
  split
  · exact Log.growsTo_setHdrWarn _ _
  · have h := unpackLinks_log pr ws (econdHeader pr n c.draws (wordAt ws 0) (wordAt ws 1)) n 2
      { c with draws := c.draws + 2 }
    split
    · rename_i hr
      rwa [hr] at h
    · rename_i hr
      rw [hr] at h
      split
      · exact h
      · exact h.trans (Log.growsTo_setHdrWarn _ _)

theorem msGroup_log (pr : Params) (n : Nat) (ws : List Word) (off : Nat) (flag : BitVec 4) (iSample : BitVec 11)
    (soi : Bool) (length : BitVec 16) (m : Ms) (c : Acc) :
    c.log.GrowsTo (msGroup pr n ws off flag iSample soi length m c).accOf.log := by
  have h := econdFrom_log pr n ((ws.drop (off + 1)).take length.toNat) c
  unfold msGroup
  split
  · exact Log.growsTo_refl _
  split
  · rename_i hr
    rwa [hr] at h
  · rename_i hr
    rwa [hr] at h

theorem msLoop_log (pr : Params) (n : Nat) (ws : List Word) (room off : Nat) (m : Ms) (c : Acc) :
    c.log.GrowsTo (msLoop pr n ws room off m c).accOf.log := by
  induction room generalizing off m c with
  | zero =>
    unfold msLoop
    split <;> exact Log.growsTo_refl _
  | succ room ih =>
    unfold msLoop
    dsimp only
    split
    · have h := msGroup_log pr n ws off (pr.msLayout.flag.get (wordAt ws off) 4)
        (pr.msLayout.index.get (wordAt ws off) 11) ((pr.msLayout.soi.get (wordAt ws off) 1).getLsbD 0)
        (pr.msLayout.length.get (wordAt ws off) 16) m c
      split
      · rename_i hr
        rwa [hr] at h
      · rename_i hr
        rw [hr] at h
        exact h.trans (ih _ _ _)
    · exact Log.growsTo_refl _

theorem rocSlices_log (pr : Params) (ws : List Word) (n i off : Nat) (r : Roc) (c : Acc) :
    c.log.GrowsTo (rocSlices pr ws n i off r c).accOf.log := by
  induction n generalizing i off r c with
  | zero => exact Log.growsTo_refl _
  | succ n ih =>
    unfold rocSlices
    dsimp only
    split
    · exact Log.growsTo_refl _
    split
    · have h := daqFrom_log pr ((ws.drop off).take (linkLenOf r i)) c
      split
      · rename_i hr
        rwa [hr] at h
      · rename_i hr
        rw [hr] at h
        exact h.trans (ih _ _ _ _)
    · exact ih _ _ _ _

theorem rocFrom_log (pr : Params) (ws : List Word) (c : Acc) : c.log.GrowsTo (rocFrom pr ws c).accOf.log := by
  unfold rocFrom
  split
  · exact Log.growsTo_refl _
  split
  · exact Log.growsTo_refl _
  split
  · exact Log.growsTo_refl _
  · exact rocSlices_log _ _ _ _ _ _ _

/-! ### How far a sub-packet reaches -/

theorem classify_recordBits (k : RecClass) : k.recordBits = 16 ∨ k.recordBits = 24 ∨ k.recordBits = 32 := by
  cases k <;> decide

/-- A record that decodes lies within the span and moves the cursor by its length. -/
theorem readRecord_next {ws : List Word} {p : Nat} {r : Rec} (h : readRecord ws p = .ok r) :
    r.next = p + (classify (bitRead ws p 4)).recordBits ∧ r.next ≤ 32 * ws.length := by
  unfold readRecord at h
  dsimp only at h
  split at h
  · cases h
  split at h
  · cases h
  · cases h
    exact ⟨rfl, Nat.le_of_not_lt ‹_›⟩

theorem unpackSlots_cursor {o : ChmapOrder} {ws : List Word} {n slot p : Nat} {d d' : Link} {c c' : Acc} {q : Nat}
    (h : unpackSlots o ws n slot p d c = .done (d', q) c') (hp : p ≤ 32 * ws.length) :
    p ≤ q ∧ q ≤ 32 * ws.length := by
  induction n generalizing slot p d c with
  | zero => cases h; exact ⟨Nat.le_refl _, hp⟩
  | succ n ih =>
    unfold unpackSlots at h
    split at h
    · split at h
      · cases h
      · obtain ⟨h1, h2⟩ := readRecord_next ‹_›
        have := ih h h2
        omega
    · exact ih h hp

/-- A decoded sub-packet consumes at least one word and none past its span (R175, R190). -/
theorem unpackSubpacket_nwords {pr : Params} {ws : List Word} {pt : Bool} {c c' : Acc} {d : Link}
    (h : unpackSubpacket pr ws pt c = .done d c') : 1 ≤ d.nwords ∧ d.nwords ≤ ws.length := by
  unfold unpackSubpacket at h
  dsimp only at h
  split at h
  · cases h
  rename_i h0
  split at h
  · rename_i he
    cases h
    simp only [applyErxHdr0, he, if_true]
    omega
  split at h
  · cases h
  rename_i h1
  split at h
  · split at h
    · cases h
    · rename_i hlt
      cases h
      cases hp : pr.ptHeader <;> simp only [passthroughRecord, PtHeader.words, hp] at hlt ⊢ <;> omega
  · split at h
    · cases h
    · rename_i hr
      cases h
      have := unpackSlots_cursor hr (by omega)
      simp only [ceilWords]
      omega

theorem unpackLinks_off {pr : Params} {ws : List Word} {e : Econd} {n off off' : Nat} {c c' : Acc}
    {ds : List Link} (h : unpackLinks pr ws e n off c = .done (ds, off') c') :
    ds.length = n ∧ off + n ≤ off' ∧ off' = off + (ds.map Link.nwords).sum := by
  induction n generalizing off c ds with
  | zero => cases h; simp
  | succ n ih =>
    unfold unpackLinks at h
    split at h
    · cases h
    · rename_i d c₁ hr
      split at h
      · cases h
      · rename_i hr'
        have hn := unpackSubpacket_nwords hr
        cases h
        obtain ⟨h1, h2, h3⟩ := ih hr'
        simp only [List.length_cons, List.map_cons, List.sum_cons, stampLink, h1, true_and]
        omega

/-! ### How many samples an envelope holds -/

theorem msGroup_samples {pr : Params} {n : Nat} {ws : List Word} {off : Nat} {flag : BitVec 4}
    {iSample : BitVec 11} {soi : Bool} {length : BitVec 16} {m m' : Ms} {c c' : Acc}
    (h : msGroup pr n ws off flag iSample soi length m c = .done m' c') :
    m'.samples.length = m.samples.length + 1 ∧ off + 1 + length.toNat ≤ ws.length := by
  unfold msGroup at h
  split at h
  · cases h
  rename_i hlt
  split at h
  · cases h
  · cases h
    simp only [List.length_append, List.length_cons, List.length_nil, true_and]
    omega

theorem msLoop_samples {pr : Params} {n : Nat} {ws : List Word} {room off : Nat} {m m' : Ms} {c c' : Acc}
    (h : msLoop pr n ws room off m c = .done m' c') : m'.samples.length ≤ m.samples.length + room := by
  induction room generalizing off m c with
  | zero =>
    unfold msLoop at h
    split at h
    · cases h
    · cases h; exact Nat.le_refl _
  | succ room ih =>
    unfold msLoop at h
    dsimp only at h
    split at h
    · split at h
      · cases h
      · rename_i hr
        have := msGroup_samples hr
        have := ih h
        omega
    · cases h
      omega

/-! ### Header words -/

/-- The fields of the first header word put together are the word (R210). -/
theorem econdWord0_of_fields (w : Word) (e : Econd) :
    econdWord0
        (applyEcondHdr0 (w.extractLsb' 23 9) (w.extractLsb' 14 9) (w.getLsbD 13) (w.getLsbD 12) (w.extractLsb' 10 2)
          (w.extractLsb' 8 2) (w.getLsbD 7) (w.getLsbD 6) (w.extractLsb' 0 6) e) = w := by
  apply BitVec.eq_of_getLsbD_eq
  intro k hk
  simp only [econdWord0, applyEcondHdr0, BitVec.getLsbD_append, BitVec.getLsbD_extractLsb', BitVec.getLsbD_ofBool]
  interval_cases k <;> simp

/-- The fields of the second header word put together are the word (R211). -/
theorem econdWord1_of_fields (w : Word) :
    econdWord1 (w.extractLsb' 20 12) (w.extractLsb' 14 6) (w.extractLsb' 11 3) (w.getLsbD 10) (w.extractLsb' 8 2)
      (w.extractLsb' 0 8) = w := by
  apply BitVec.eq_of_getLsbD_eq
  intro k hk
  simp only [econdWord1, BitVec.getLsbD_append, BitVec.getLsbD_extractLsb', BitVec.getLsbD_ofBool]
  interval_cases k <;> simp

end Sys2Proof.Machine
end

