-- ==== Sys2Proof/Laws/State.lean ====
section
/-! SUPPORT. One lemma per field per update of the state: what each named update leaves of each field, by rfl. -/

namespace Sys2Proof.Machine

/-! ### `withAcc` -/

@[simp] theorem withAcc_ibuf (s : State) (c : Acc) : (s.withAcc c).ibuf = s.ibuf := rfl
@[simp] theorem withAcc_ilen (s : State) (c : Acc) : (s.withAcc c).ilen = s.ilen := rfl
@[simp] theorem withAcc_spanBase (s : State) (c : Acc) : (s.withAcc c).spanBase = s.spanBase := rfl
@[simp] theorem withAcc_spanLen (s : State) (c : Acc) : (s.withAcc c).spanLen = s.spanLen := rfl
@[simp] theorem withAcc_p (s : State) (c : Acc) : (s.withAcc c).p = s.p := rfl
@[simp] theorem withAcc_samp (s : State) (c : Acc) : (s.withAcc c).samp = s.samp := rfl
@[simp] theorem withAcc_daq (s : State) (c : Acc) : (s.withAcc c).daq = s.daq := rfl
@[simp] theorem withAcc_trig (s : State) (c : Acc) : (s.withAcc c).trig = s.trig := rfl
@[simp] theorem withAcc_roc (s : State) (c : Acc) : (s.withAcc c).roc = s.roc := rfl
@[simp] theorem withAcc_erx (s : State) (c : Acc) : (s.withAcc c).erx = s.erx := rfl
@[simp] theorem withAcc_erxConsumed (s : State) (c : Acc) : (s.withAcc c).erxConsumed = s.erxConsumed := rfl
@[simp] theorem withAcc_econd (s : State) (c : Acc) : (s.withAcc c).econd = s.econd := rfl
@[simp] theorem withAcc_ms (s : State) (c : Acc) : (s.withAcc c).ms = s.ms := rfl
@[simp] theorem withAcc_res (s : State) (c : Acc) : (s.withAcc c).res = s.res := rfl
@[simp] theorem withAcc_crc32 (s : State) (c : Acc) : (s.withAcc c).crc32 = s.crc32 := rfl
@[simp] theorem withAcc_crc8 (s : State) (c : Acc) : (s.withAcc c).crc8 = s.crc8 := rfl
@[simp] theorem withAcc_obuf (s : State) (c : Acc) : (s.withAcc c).obuf = s.obuf := rfl
@[simp] theorem withAcc_olen (s : State) (c : Acc) : (s.withAcc c).olen = s.olen := rfl
@[simp] theorem withAcc_op (s : State) (c : Acc) : (s.withAcc c).op = s.op := rfl
@[simp] theorem withAcc_fmtOpen (s : State) (c : Acc) : (s.withAcc c).fmtOpen = s.fmtOpen := rfl
@[simp] theorem withAcc_fmtNlinks (s : State) (c : Acc) : (s.withAcc c).fmtNlinks = s.fmtNlinks := rfl
@[simp] theorem withAcc_log (s : State) (c : Acc) : (s.withAcc c).log = c.log := rfl
@[simp] theorem withAcc_cmd (s : State) (c : Acc) : (s.withAcc c).cmd = s.cmd := rfl
@[simp] theorem withAcc_arg0 (s : State) (c : Acc) : (s.withAcc c).arg0 = s.arg0 := rfl
@[simp] theorem withAcc_arg1 (s : State) (c : Acc) : (s.withAcc c).arg1 = s.arg1 := rfl
@[simp] theorem withAcc_arg2 (s : State) (c : Acc) : (s.withAcc c).arg2 = s.arg2 := rfl
@[simp] theorem withAcc_arg3 (s : State) (c : Acc) : (s.withAcc c).arg3 = s.arg3 := rfl
@[simp] theorem withAcc_fault (s : State) (c : Acc) : (s.withAcc c).fault = s.fault := rfl
@[simp] theorem withAcc_faultInfo (s : State) (c : Acc) : (s.withAcc c).faultInfo = s.faultInfo := rfl
@[simp] theorem withAcc_faultOp (s : State) (c : Acc) : (s.withAcc c).faultOp = s.faultOp := rfl
@[simp] theorem withAcc_cfgNlinks (s : State) (c : Acc) : (s.withAcc c).cfgNlinks = s.cfgNlinks := rfl
@[simp] theorem withAcc_cfgZsEn (s : State) (c : Acc) : (s.withAcc c).cfgZsEn = s.cfgZsEn := rfl
@[simp] theorem withAcc_strmPos (s : State) (c : Acc) : (s.withAcc c).strmPos = s.strmPos := rfl
@[simp] theorem withAcc_strmEof (s : State) (c : Acc) : (s.withAcc c).strmEof = s.strmEof := rfl
@[simp] theorem withAcc_params (s : State) (c : Acc) : (s.withAcc c).params = s.params := rfl
@[simp] theorem withAcc_strm (s : State) (c : Acc) : (s.withAcc c).strm = s.strm := rfl
@[simp] theorem withAcc_script (s : State) (c : Acc) : (s.withAcc c).script = s.script := rfl
@[simp] theorem withAcc_frame (s : State) (c : Acc) : (s.withAcc c).frame = s.frame := rfl
@[simp] theorem withAcc_draws (s : State) (c : Acc) : (s.withAcc c).draws = c.draws := rfl

/-! ### `withFmt` -/

@[simp] theorem withFmt_ibuf (s : State) (f : BitBuf) : (s.withFmt f).ibuf = s.ibuf := rfl
@[simp] theorem withFmt_ilen (s : State) (f : BitBuf) : (s.withFmt f).ilen = s.ilen := rfl
@[simp] theorem withFmt_spanBase (s : State) (f : BitBuf) : (s.withFmt f).spanBase = s.spanBase := rfl
@[simp] theorem withFmt_spanLen (s : State) (f : BitBuf) : (s.withFmt f).spanLen = s.spanLen := rfl
@[simp] theorem withFmt_p (s : State) (f : BitBuf) : (s.withFmt f).p = s.p := rfl
@[simp] theorem withFmt_samp (s : State) (f : BitBuf) : (s.withFmt f).samp = s.samp := rfl
@[simp] theorem withFmt_daq (s : State) (f : BitBuf) : (s.withFmt f).daq = s.daq := rfl
@[simp] theorem withFmt_trig (s : State) (f : BitBuf) : (s.withFmt f).trig = s.trig := rfl
@[simp] theorem withFmt_roc (s : State) (f : BitBuf) : (s.withFmt f).roc = s.roc := rfl
@[simp] theorem withFmt_erx (s : State) (f : BitBuf) : (s.withFmt f).erx = s.erx := rfl
@[simp] theorem withFmt_erxConsumed (s : State) (f : BitBuf) : (s.withFmt f).erxConsumed = s.erxConsumed := rfl
@[simp] theorem withFmt_econd (s : State) (f : BitBuf) : (s.withFmt f).econd = s.econd := rfl
@[simp] theorem withFmt_ms (s : State) (f : BitBuf) : (s.withFmt f).ms = s.ms := rfl
@[simp] theorem withFmt_res (s : State) (f : BitBuf) : (s.withFmt f).res = s.res := rfl
@[simp] theorem withFmt_crc32 (s : State) (f : BitBuf) : (s.withFmt f).crc32 = s.crc32 := rfl
@[simp] theorem withFmt_crc8 (s : State) (f : BitBuf) : (s.withFmt f).crc8 = s.crc8 := rfl
@[simp] theorem withFmt_obuf (s : State) (f : BitBuf) : (s.withFmt f).obuf = f.mem := rfl
@[simp] theorem withFmt_olen (s : State) (f : BitBuf) : (s.withFmt f).olen = ceilWords f.op := rfl
@[simp] theorem withFmt_op (s : State) (f : BitBuf) : (s.withFmt f).op = f.op := rfl
@[simp] theorem withFmt_fmtOpen (s : State) (f : BitBuf) : (s.withFmt f).fmtOpen = s.fmtOpen := rfl
@[simp] theorem withFmt_fmtNlinks (s : State) (f : BitBuf) : (s.withFmt f).fmtNlinks = s.fmtNlinks := rfl
@[simp] theorem withFmt_log (s : State) (f : BitBuf) : (s.withFmt f).log = s.log := rfl
@[simp] theorem withFmt_cmd (s : State) (f : BitBuf) : (s.withFmt f).cmd = s.cmd := rfl
@[simp] theorem withFmt_arg0 (s : State) (f : BitBuf) : (s.withFmt f).arg0 = s.arg0 := rfl
@[simp] theorem withFmt_arg1 (s : State) (f : BitBuf) : (s.withFmt f).arg1 = s.arg1 := rfl
@[simp] theorem withFmt_arg2 (s : State) (f : BitBuf) : (s.withFmt f).arg2 = s.arg2 := rfl
@[simp] theorem withFmt_arg3 (s : State) (f : BitBuf) : (s.withFmt f).arg3 = s.arg3 := rfl
@[simp] theorem withFmt_fault (s : State) (f : BitBuf) : (s.withFmt f).fault = s.fault := rfl
@[simp] theorem withFmt_faultInfo (s : State) (f : BitBuf) : (s.withFmt f).faultInfo = s.faultInfo := rfl
@[simp] theorem withFmt_faultOp (s : State) (f : BitBuf) : (s.withFmt f).faultOp = s.faultOp := rfl
@[simp] theorem withFmt_cfgNlinks (s : State) (f : BitBuf) : (s.withFmt f).cfgNlinks = s.cfgNlinks := rfl
@[simp] theorem withFmt_cfgZsEn (s : State) (f : BitBuf) : (s.withFmt f).cfgZsEn = s.cfgZsEn := rfl
@[simp] theorem withFmt_strmPos (s : State) (f : BitBuf) : (s.withFmt f).strmPos = s.strmPos := rfl
@[simp] theorem withFmt_strmEof (s : State) (f : BitBuf) : (s.withFmt f).strmEof = s.strmEof := rfl
@[simp] theorem withFmt_params (s : State) (f : BitBuf) : (s.withFmt f).params = s.params := rfl
@[simp] theorem withFmt_strm (s : State) (f : BitBuf) : (s.withFmt f).strm = s.strm := rfl
@[simp] theorem withFmt_script (s : State) (f : BitBuf) : (s.withFmt f).script = s.script := rfl
@[simp] theorem withFmt_frame (s : State) (f : BitBuf) : (s.withFmt f).frame = s.frame := rfl
@[simp] theorem withFmt_draws (s : State) (f : BitBuf) : (s.withFmt f).draws = s.draws := rfl

/-! ### `raiseFault` -/

@[simp] theorem raiseFault_ibuf (o : BitVec 6) (e : Raise) (s : State) : (raiseFault o e s).ibuf = s.ibuf := rfl
@[simp] theorem raiseFault_ilen (o : BitVec 6) (e : Raise) (s : State) : (raiseFault o e s).ilen = s.ilen := rfl
@[simp] theorem raiseFault_spanBase (o : BitVec 6) (e : Raise) (s : State) : (raiseFault o e s).spanBase = s.spanBase := rfl
@[simp] theorem raiseFault_spanLen (o : BitVec 6) (e : Raise) (s : State) : (raiseFault o e s).spanLen = s.spanLen := rfl
@[simp] theorem raiseFault_p (o : BitVec 6) (e : Raise) (s : State) : (raiseFault o e s).p = s.p := rfl
@[simp] theorem raiseFault_samp (o : BitVec 6) (e : Raise) (s : State) : (raiseFault o e s).samp = s.samp := rfl
@[simp] theorem raiseFault_daq (o : BitVec 6) (e : Raise) (s : State) : (raiseFault o e s).daq = s.daq := rfl
@[simp] theorem raiseFault_trig (o : BitVec 6) (e : Raise) (s : State) : (raiseFault o e s).trig = s.trig := rfl
@[simp] theorem raiseFault_roc (o : BitVec 6) (e : Raise) (s : State) : (raiseFault o e s).roc = s.roc := rfl
@[simp] theorem raiseFault_erx (o : BitVec 6) (e : Raise) (s : State) : (raiseFault o e s).erx = s.erx := rfl
@[simp] theorem raiseFault_erxConsumed (o : BitVec 6) (e : Raise) (s : State) : (raiseFault o e s).erxConsumed = s.erxConsumed := rfl
@[simp] theorem raiseFault_econd (o : BitVec 6) (e : Raise) (s : State) : (raiseFault o e s).econd = s.econd := rfl
@[simp] theorem raiseFault_ms (o : BitVec 6) (e : Raise) (s : State) : (raiseFault o e s).ms = s.ms := rfl
@[simp] theorem raiseFault_res (o : BitVec 6) (e : Raise) (s : State) : (raiseFault o e s).res = s.res := rfl
@[simp] theorem raiseFault_crc32 (o : BitVec 6) (e : Raise) (s : State) : (raiseFault o e s).crc32 = s.crc32 := rfl
@[simp] theorem raiseFault_crc8 (o : BitVec 6) (e : Raise) (s : State) : (raiseFault o e s).crc8 = s.crc8 := rfl
@[simp] theorem raiseFault_obuf (o : BitVec 6) (e : Raise) (s : State) : (raiseFault o e s).obuf = s.obuf := rfl
@[simp] theorem raiseFault_olen (o : BitVec 6) (e : Raise) (s : State) : (raiseFault o e s).olen = s.olen := rfl
@[simp] theorem raiseFault_op (o : BitVec 6) (e : Raise) (s : State) : (raiseFault o e s).op = s.op := rfl
@[simp] theorem raiseFault_fmtOpen (o : BitVec 6) (e : Raise) (s : State) : (raiseFault o e s).fmtOpen = s.fmtOpen := rfl
@[simp] theorem raiseFault_fmtNlinks (o : BitVec 6) (e : Raise) (s : State) : (raiseFault o e s).fmtNlinks = s.fmtNlinks := rfl
@[simp] theorem raiseFault_log (o : BitVec 6) (e : Raise) (s : State) : (raiseFault o e s).log = s.log := rfl
@[simp] theorem raiseFault_cmd (o : BitVec 6) (e : Raise) (s : State) : (raiseFault o e s).cmd = s.cmd := rfl
@[simp] theorem raiseFault_arg0 (o : BitVec 6) (e : Raise) (s : State) : (raiseFault o e s).arg0 = s.arg0 := rfl
@[simp] theorem raiseFault_arg1 (o : BitVec 6) (e : Raise) (s : State) : (raiseFault o e s).arg1 = s.arg1 := rfl
@[simp] theorem raiseFault_arg2 (o : BitVec 6) (e : Raise) (s : State) : (raiseFault o e s).arg2 = s.arg2 := rfl
@[simp] theorem raiseFault_arg3 (o : BitVec 6) (e : Raise) (s : State) : (raiseFault o e s).arg3 = s.arg3 := rfl
@[simp] theorem raiseFault_fault (o : BitVec 6) (e : Raise) (s : State) : (raiseFault o e s).fault = some e.kind := rfl
@[simp] theorem raiseFault_faultInfo (o : BitVec 6) (e : Raise) (s : State) : (raiseFault o e s).faultInfo = BitVec.ofNat 32 e.info := rfl
@[simp] theorem raiseFault_faultOp (o : BitVec 6) (e : Raise) (s : State) : (raiseFault o e s).faultOp = o := rfl
@[simp] theorem raiseFault_cfgNlinks (o : BitVec 6) (e : Raise) (s : State) : (raiseFault o e s).cfgNlinks = s.cfgNlinks := rfl
@[simp] theorem raiseFault_cfgZsEn (o : BitVec 6) (e : Raise) (s : State) : (raiseFault o e s).cfgZsEn = s.cfgZsEn := rfl
@[simp] theorem raiseFault_strmPos (o : BitVec 6) (e : Raise) (s : State) : (raiseFault o e s).strmPos = s.strmPos := rfl
@[simp] theorem raiseFault_strmEof (o : BitVec 6) (e : Raise) (s : State) : (raiseFault o e s).strmEof = s.strmEof := rfl
@[simp] theorem raiseFault_params (o : BitVec 6) (e : Raise) (s : State) : (raiseFault o e s).params = s.params := rfl
@[simp] theorem raiseFault_strm (o : BitVec 6) (e : Raise) (s : State) : (raiseFault o e s).strm = s.strm := rfl
@[simp] theorem raiseFault_script (o : BitVec 6) (e : Raise) (s : State) : (raiseFault o e s).script = s.script := rfl
@[simp] theorem raiseFault_frame (o : BitVec 6) (e : Raise) (s : State) : (raiseFault o e s).frame = s.frame := rfl
@[simp] theorem raiseFault_draws (o : BitVec 6) (e : Raise) (s : State) : (raiseFault o e s).draws = s.draws := rfl

/-! ### `clearFault` -/

@[simp] theorem clearFault_ibuf (s : State) : (clearFault s).ibuf = s.ibuf := rfl
@[simp] theorem clearFault_ilen (s : State) : (clearFault s).ilen = s.ilen := rfl
@[simp] theorem clearFault_spanBase (s : State) : (clearFault s).spanBase = s.spanBase := rfl
@[simp] theorem clearFault_spanLen (s : State) : (clearFault s).spanLen = s.spanLen := rfl
@[simp] theorem clearFault_p (s : State) : (clearFault s).p = s.p := rfl
@[simp] theorem clearFault_samp (s : State) : (clearFault s).samp = s.samp := rfl
@[simp] theorem clearFault_daq (s : State) : (clearFault s).daq = s.daq := rfl
@[simp] theorem clearFault_trig (s : State) : (clearFault s).trig = s.trig := rfl
@[simp] theorem clearFault_roc (s : State) : (clearFault s).roc = s.roc := rfl
@[simp] theorem clearFault_erx (s : State) : (clearFault s).erx = s.erx := rfl
@[simp] theorem clearFault_erxConsumed (s : State) : (clearFault s).erxConsumed = s.erxConsumed := rfl
@[simp] theorem clearFault_econd (s : State) : (clearFault s).econd = s.econd := rfl
@[simp] theorem clearFault_ms (s : State) : (clearFault s).ms = s.ms := rfl
@[simp] theorem clearFault_res (s : State) : (clearFault s).res = s.res := rfl
@[simp] theorem clearFault_crc32 (s : State) : (clearFault s).crc32 = s.crc32 := rfl
@[simp] theorem clearFault_crc8 (s : State) : (clearFault s).crc8 = s.crc8 := rfl
@[simp] theorem clearFault_obuf (s : State) : (clearFault s).obuf = s.obuf := rfl
@[simp] theorem clearFault_olen (s : State) : (clearFault s).olen = s.olen := rfl
@[simp] theorem clearFault_op (s : State) : (clearFault s).op = s.op := rfl
@[simp] theorem clearFault_fmtOpen (s : State) : (clearFault s).fmtOpen = s.fmtOpen := rfl
@[simp] theorem clearFault_fmtNlinks (s : State) : (clearFault s).fmtNlinks = s.fmtNlinks := rfl
@[simp] theorem clearFault_log (s : State) : (clearFault s).log = s.log := rfl
@[simp] theorem clearFault_cmd (s : State) : (clearFault s).cmd = s.cmd := rfl
@[simp] theorem clearFault_arg0 (s : State) : (clearFault s).arg0 = s.arg0 := rfl
@[simp] theorem clearFault_arg1 (s : State) : (clearFault s).arg1 = s.arg1 := rfl
@[simp] theorem clearFault_arg2 (s : State) : (clearFault s).arg2 = s.arg2 := rfl
@[simp] theorem clearFault_arg3 (s : State) : (clearFault s).arg3 = s.arg3 := rfl
@[simp] theorem clearFault_fault (s : State) : (clearFault s).fault = none := rfl
@[simp] theorem clearFault_faultInfo (s : State) : (clearFault s).faultInfo = 0#32 := rfl
@[simp] theorem clearFault_faultOp (s : State) : (clearFault s).faultOp = 0#6 := rfl
@[simp] theorem clearFault_cfgNlinks (s : State) : (clearFault s).cfgNlinks = s.cfgNlinks := rfl
@[simp] theorem clearFault_cfgZsEn (s : State) : (clearFault s).cfgZsEn = s.cfgZsEn := rfl
@[simp] theorem clearFault_strmPos (s : State) : (clearFault s).strmPos = s.strmPos := rfl
@[simp] theorem clearFault_strmEof (s : State) : (clearFault s).strmEof = s.strmEof := rfl
@[simp] theorem clearFault_params (s : State) : (clearFault s).params = s.params := rfl
@[simp] theorem clearFault_strm (s : State) : (clearFault s).strm = s.strm := rfl
@[simp] theorem clearFault_script (s : State) : (clearFault s).script = s.script := rfl
@[simp] theorem clearFault_frame (s : State) : (clearFault s).frame = s.frame := rfl
@[simp] theorem clearFault_draws (s : State) : (clearFault s).draws = s.draws := rfl

/-! ### `consumeWords` -/

@[simp] theorem consumeWords_ibuf (n : Nat) (s : State) : (consumeWords n s).ibuf = s.ibuf := rfl
@[simp] theorem consumeWords_ilen (n : Nat) (s : State) : (consumeWords n s).ilen = s.ilen := rfl
@[simp] theorem consumeWords_spanBase (n : Nat) (s : State) : (consumeWords n s).spanBase = s.spanBase := rfl
@[simp] theorem consumeWords_spanLen (n : Nat) (s : State) : (consumeWords n s).spanLen = s.spanLen := rfl
@[simp] theorem consumeWords_p (n : Nat) (s : State) : (consumeWords n s).p = s.p := rfl
@[simp] theorem consumeWords_samp (n : Nat) (s : State) : (consumeWords n s).samp = s.samp := rfl
@[simp] theorem consumeWords_daq (n : Nat) (s : State) : (consumeWords n s).daq = s.daq := rfl
@[simp] theorem consumeWords_trig (n : Nat) (s : State) : (consumeWords n s).trig = s.trig := rfl
@[simp] theorem consumeWords_roc (n : Nat) (s : State) : (consumeWords n s).roc = s.roc := rfl
@[simp] theorem consumeWords_erx (n : Nat) (s : State) : (consumeWords n s).erx = s.erx := rfl
@[simp] theorem consumeWords_erxConsumed (n : Nat) (s : State) : (consumeWords n s).erxConsumed = s.erxConsumed := rfl
@[simp] theorem consumeWords_econd (n : Nat) (s : State) : (consumeWords n s).econd = s.econd := rfl
@[simp] theorem consumeWords_ms (n : Nat) (s : State) : (consumeWords n s).ms = s.ms := rfl
@[simp] theorem consumeWords_res (n : Nat) (s : State) : (consumeWords n s).res = s.res := rfl
@[simp] theorem consumeWords_crc32 (n : Nat) (s : State) : (consumeWords n s).crc32 = s.crc32 := rfl
@[simp] theorem consumeWords_crc8 (n : Nat) (s : State) : (consumeWords n s).crc8 = s.crc8 := rfl
@[simp] theorem consumeWords_obuf (n : Nat) (s : State) : (consumeWords n s).obuf = s.obuf := rfl
@[simp] theorem consumeWords_olen (n : Nat) (s : State) : (consumeWords n s).olen = s.olen := rfl
@[simp] theorem consumeWords_op (n : Nat) (s : State) : (consumeWords n s).op = s.op := rfl
@[simp] theorem consumeWords_fmtOpen (n : Nat) (s : State) : (consumeWords n s).fmtOpen = s.fmtOpen := rfl
@[simp] theorem consumeWords_fmtNlinks (n : Nat) (s : State) : (consumeWords n s).fmtNlinks = s.fmtNlinks := rfl
@[simp] theorem consumeWords_log (n : Nat) (s : State) : (consumeWords n s).log = s.log := rfl
@[simp] theorem consumeWords_cmd (n : Nat) (s : State) : (consumeWords n s).cmd = s.cmd := rfl
@[simp] theorem consumeWords_arg0 (n : Nat) (s : State) : (consumeWords n s).arg0 = s.arg0 := rfl
@[simp] theorem consumeWords_arg1 (n : Nat) (s : State) : (consumeWords n s).arg1 = s.arg1 := rfl
@[simp] theorem consumeWords_arg2 (n : Nat) (s : State) : (consumeWords n s).arg2 = s.arg2 := rfl
@[simp] theorem consumeWords_arg3 (n : Nat) (s : State) : (consumeWords n s).arg3 = s.arg3 := rfl
@[simp] theorem consumeWords_fault (n : Nat) (s : State) : (consumeWords n s).fault = s.fault := rfl
@[simp] theorem consumeWords_faultInfo (n : Nat) (s : State) : (consumeWords n s).faultInfo = s.faultInfo := rfl
@[simp] theorem consumeWords_faultOp (n : Nat) (s : State) : (consumeWords n s).faultOp = s.faultOp := rfl
@[simp] theorem consumeWords_cfgNlinks (n : Nat) (s : State) : (consumeWords n s).cfgNlinks = s.cfgNlinks := rfl
@[simp] theorem consumeWords_cfgZsEn (n : Nat) (s : State) : (consumeWords n s).cfgZsEn = s.cfgZsEn := rfl
@[simp] theorem consumeWords_strmPos (n : Nat) (s : State) : (consumeWords n s).strmPos = s.strmPos + n := rfl
@[simp] theorem consumeWords_strmEof (n : Nat) (s : State) : (consumeWords n s).strmEof = s.strmEof := rfl
@[simp] theorem consumeWords_params (n : Nat) (s : State) : (consumeWords n s).params = s.params := rfl
@[simp] theorem consumeWords_strm (n : Nat) (s : State) : (consumeWords n s).strm = s.strm := rfl
@[simp] theorem consumeWords_script (n : Nat) (s : State) : (consumeWords n s).script = s.script := rfl
@[simp] theorem consumeWords_frame (n : Nat) (s : State) : (consumeWords n s).frame = s.frame := rfl
@[simp] theorem consumeWords_draws (n : Nat) (s : State) : (consumeWords n s).draws = s.draws := rfl

/-! ### `meetStreamEnd` -/

@[simp] theorem meetStreamEnd_ibuf (s : State) : (meetStreamEnd s).ibuf = s.ibuf := rfl
@[simp] theorem meetStreamEnd_ilen (s : State) : (meetStreamEnd s).ilen = s.ilen := rfl
@[simp] theorem meetStreamEnd_spanBase (s : State) : (meetStreamEnd s).spanBase = s.spanBase := rfl
@[simp] theorem meetStreamEnd_spanLen (s : State) : (meetStreamEnd s).spanLen = s.spanLen := rfl
@[simp] theorem meetStreamEnd_p (s : State) : (meetStreamEnd s).p = s.p := rfl
@[simp] theorem meetStreamEnd_samp (s : State) : (meetStreamEnd s).samp = s.samp := rfl
@[simp] theorem meetStreamEnd_daq (s : State) : (meetStreamEnd s).daq = s.daq := rfl
@[simp] theorem meetStreamEnd_trig (s : State) : (meetStreamEnd s).trig = s.trig := rfl
@[simp] theorem meetStreamEnd_roc (s : State) : (meetStreamEnd s).roc = s.roc := rfl
@[simp] theorem meetStreamEnd_erx (s : State) : (meetStreamEnd s).erx = s.erx := rfl
@[simp] theorem meetStreamEnd_erxConsumed (s : State) : (meetStreamEnd s).erxConsumed = s.erxConsumed := rfl
@[simp] theorem meetStreamEnd_econd (s : State) : (meetStreamEnd s).econd = s.econd := rfl
@[simp] theorem meetStreamEnd_ms (s : State) : (meetStreamEnd s).ms = s.ms := rfl
@[simp] theorem meetStreamEnd_res (s : State) : (meetStreamEnd s).res = s.res := rfl
@[simp] theorem meetStreamEnd_crc32 (s : State) : (meetStreamEnd s).crc32 = s.crc32 := rfl
@[simp] theorem meetStreamEnd_crc8 (s : State) : (meetStreamEnd s).crc8 = s.crc8 := rfl
@[simp] theorem meetStreamEnd_obuf (s : State) : (meetStreamEnd s).obuf = s.obuf := rfl
@[simp] theorem meetStreamEnd_olen (s : State) : (meetStreamEnd s).olen = s.olen := rfl
@[simp] theorem meetStreamEnd_op (s : State) : (meetStreamEnd s).op = s.op := rfl
@[simp] theorem meetStreamEnd_fmtOpen (s : State) : (meetStreamEnd s).fmtOpen = s.fmtOpen := rfl
@[simp] theorem meetStreamEnd_fmtNlinks (s : State) : (meetStreamEnd s).fmtNlinks = s.fmtNlinks := rfl
@[simp] theorem meetStreamEnd_log (s : State) : (meetStreamEnd s).log = s.log := rfl
@[simp] theorem meetStreamEnd_cmd (s : State) : (meetStreamEnd s).cmd = s.cmd := rfl
@[simp] theorem meetStreamEnd_arg0 (s : State) : (meetStreamEnd s).arg0 = s.arg0 := rfl
@[simp] theorem meetStreamEnd_arg1 (s : State) : (meetStreamEnd s).arg1 = s.arg1 := rfl
@[simp] theorem meetStreamEnd_arg2 (s : State) : (meetStreamEnd s).arg2 = s.arg2 := rfl
@[simp] theorem meetStreamEnd_arg3 (s : State) : (meetStreamEnd s).arg3 = s.arg3 := rfl
@[simp] theorem meetStreamEnd_fault (s : State) : (meetStreamEnd s).fault = s.fault := rfl
@[simp] theorem meetStreamEnd_faultInfo (s : State) : (meetStreamEnd s).faultInfo = s.faultInfo := rfl
@[simp] theorem meetStreamEnd_faultOp (s : State) : (meetStreamEnd s).faultOp = s.faultOp := rfl
@[simp] theorem meetStreamEnd_cfgNlinks (s : State) : (meetStreamEnd s).cfgNlinks = s.cfgNlinks := rfl
@[simp] theorem meetStreamEnd_cfgZsEn (s : State) : (meetStreamEnd s).cfgZsEn = s.cfgZsEn := rfl
@[simp] theorem meetStreamEnd_strmPos (s : State) : (meetStreamEnd s).strmPos = s.strmPos + (s.strm.words.length - s.strmPos) := rfl
@[simp] theorem meetStreamEnd_strmEof (s : State) : (meetStreamEnd s).strmEof = true := rfl
@[simp] theorem meetStreamEnd_params (s : State) : (meetStreamEnd s).params = s.params := rfl
@[simp] theorem meetStreamEnd_strm (s : State) : (meetStreamEnd s).strm = s.strm := rfl
@[simp] theorem meetStreamEnd_script (s : State) : (meetStreamEnd s).script = s.script := rfl
@[simp] theorem meetStreamEnd_frame (s : State) : (meetStreamEnd s).frame = s.frame := rfl
@[simp] theorem meetStreamEnd_draws (s : State) : (meetStreamEnd s).draws = s.draws := rfl

/-! ### `appendFrame` -/

@[simp] theorem appendFrame_ibuf (n v : Nat) (s : State) : (appendFrame n v s).ibuf = s.ibuf := rfl
@[simp] theorem appendFrame_ilen (n v : Nat) (s : State) : (appendFrame n v s).ilen = s.ilen := rfl
@[simp] theorem appendFrame_spanBase (n v : Nat) (s : State) : (appendFrame n v s).spanBase = s.spanBase := rfl
@[simp] theorem appendFrame_spanLen (n v : Nat) (s : State) : (appendFrame n v s).spanLen = s.spanLen := rfl
@[simp] theorem appendFrame_p (n v : Nat) (s : State) : (appendFrame n v s).p = s.p := rfl
@[simp] theorem appendFrame_samp (n v : Nat) (s : State) : (appendFrame n v s).samp = s.samp := rfl
@[simp] theorem appendFrame_daq (n v : Nat) (s : State) : (appendFrame n v s).daq = s.daq := rfl
@[simp] theorem appendFrame_trig (n v : Nat) (s : State) : (appendFrame n v s).trig = s.trig := rfl
@[simp] theorem appendFrame_roc (n v : Nat) (s : State) : (appendFrame n v s).roc = s.roc := rfl
@[simp] theorem appendFrame_erx (n v : Nat) (s : State) : (appendFrame n v s).erx = s.erx := rfl
@[simp] theorem appendFrame_erxConsumed (n v : Nat) (s : State) : (appendFrame n v s).erxConsumed = s.erxConsumed := rfl
@[simp] theorem appendFrame_econd (n v : Nat) (s : State) : (appendFrame n v s).econd = s.econd := rfl
@[simp] theorem appendFrame_ms (n v : Nat) (s : State) : (appendFrame n v s).ms = s.ms := rfl
@[simp] theorem appendFrame_res (n v : Nat) (s : State) : (appendFrame n v s).res = s.res := rfl
@[simp] theorem appendFrame_crc32 (n v : Nat) (s : State) : (appendFrame n v s).crc32 = s.crc32 := rfl
@[simp] theorem appendFrame_crc8 (n v : Nat) (s : State) : (appendFrame n v s).crc8 = s.crc8 := rfl
@[simp] theorem appendFrame_obuf (n v : Nat) (s : State) : (appendFrame n v s).obuf = s.obuf := rfl
@[simp] theorem appendFrame_olen (n v : Nat) (s : State) : (appendFrame n v s).olen = s.olen := rfl
@[simp] theorem appendFrame_op (n v : Nat) (s : State) : (appendFrame n v s).op = s.op := rfl
@[simp] theorem appendFrame_fmtOpen (n v : Nat) (s : State) : (appendFrame n v s).fmtOpen = s.fmtOpen := rfl
@[simp] theorem appendFrame_fmtNlinks (n v : Nat) (s : State) : (appendFrame n v s).fmtNlinks = s.fmtNlinks := rfl
@[simp] theorem appendFrame_log (n v : Nat) (s : State) : (appendFrame n v s).log = s.log := rfl
@[simp] theorem appendFrame_cmd (n v : Nat) (s : State) : (appendFrame n v s).cmd = s.cmd := rfl
@[simp] theorem appendFrame_arg0 (n v : Nat) (s : State) : (appendFrame n v s).arg0 = s.arg0 := rfl
@[simp] theorem appendFrame_arg1 (n v : Nat) (s : State) : (appendFrame n v s).arg1 = s.arg1 := rfl
@[simp] theorem appendFrame_arg2 (n v : Nat) (s : State) : (appendFrame n v s).arg2 = s.arg2 := rfl
@[simp] theorem appendFrame_arg3 (n v : Nat) (s : State) : (appendFrame n v s).arg3 = s.arg3 := rfl
@[simp] theorem appendFrame_fault (n v : Nat) (s : State) : (appendFrame n v s).fault = s.fault := rfl
@[simp] theorem appendFrame_faultInfo (n v : Nat) (s : State) : (appendFrame n v s).faultInfo = s.faultInfo := rfl
@[simp] theorem appendFrame_faultOp (n v : Nat) (s : State) : (appendFrame n v s).faultOp = s.faultOp := rfl
@[simp] theorem appendFrame_cfgNlinks (n v : Nat) (s : State) : (appendFrame n v s).cfgNlinks = s.cfgNlinks := rfl
@[simp] theorem appendFrame_cfgZsEn (n v : Nat) (s : State) : (appendFrame n v s).cfgZsEn = s.cfgZsEn := rfl
@[simp] theorem appendFrame_strmPos (n v : Nat) (s : State) : (appendFrame n v s).strmPos = s.strmPos := rfl
@[simp] theorem appendFrame_strmEof (n v : Nat) (s : State) : (appendFrame n v s).strmEof = s.strmEof := rfl
@[simp] theorem appendFrame_params (n v : Nat) (s : State) : (appendFrame n v s).params = s.params := rfl
@[simp] theorem appendFrame_strm (n v : Nat) (s : State) : (appendFrame n v s).strm = s.strm := rfl
@[simp] theorem appendFrame_script (n v : Nat) (s : State) : (appendFrame n v s).script = s.script := rfl
@[simp] theorem appendFrame_frame (n v : Nat) (s : State) : (appendFrame n v s).frame = writeBits n v s.frame := rfl
@[simp] theorem appendFrame_draws (n v : Nat) (s : State) : (appendFrame n v s).draws = s.draws := rfl

/-! ### `openWindow` -/

@[simp] theorem openWindow_ibuf (ws : List Word) (s : State) : (openWindow ws s).ibuf = Memory.writeWords s.ibuf 0 ws := rfl
@[simp] theorem openWindow_ilen (ws : List Word) (s : State) : (openWindow ws s).ilen = ws.length := rfl
@[simp] theorem openWindow_spanBase (ws : List Word) (s : State) : (openWindow ws s).spanBase = 0 := rfl
@[simp] theorem openWindow_spanLen (ws : List Word) (s : State) : (openWindow ws s).spanLen = ws.length := rfl
@[simp] theorem openWindow_p (ws : List Word) (s : State) : (openWindow ws s).p = 0 := rfl
@[simp] theorem openWindow_samp (ws : List Word) (s : State) : (openWindow ws s).samp = s.samp := rfl
@[simp] theorem openWindow_daq (ws : List Word) (s : State) : (openWindow ws s).daq = s.daq := rfl
@[simp] theorem openWindow_trig (ws : List Word) (s : State) : (openWindow ws s).trig = s.trig := rfl
@[simp] theorem openWindow_roc (ws : List Word) (s : State) : (openWindow ws s).roc = s.roc := rfl
@[simp] theorem openWindow_erx (ws : List Word) (s : State) : (openWindow ws s).erx = s.erx := rfl
@[simp] theorem openWindow_erxConsumed (ws : List Word) (s : State) : (openWindow ws s).erxConsumed = s.erxConsumed := rfl
@[simp] theorem openWindow_econd (ws : List Word) (s : State) : (openWindow ws s).econd = s.econd := rfl
@[simp] theorem openWindow_ms (ws : List Word) (s : State) : (openWindow ws s).ms = s.ms := rfl
@[simp] theorem openWindow_res (ws : List Word) (s : State) : (openWindow ws s).res = 1#32 := rfl
@[simp] theorem openWindow_crc32 (ws : List Word) (s : State) : (openWindow ws s).crc32 = s.crc32 := rfl
@[simp] theorem openWindow_crc8 (ws : List Word) (s : State) : (openWindow ws s).crc8 = s.crc8 := rfl
@[simp] theorem openWindow_obuf (ws : List Word) (s : State) : (openWindow ws s).obuf = s.obuf := rfl
@[simp] theorem openWindow_olen (ws : List Word) (s : State) : (openWindow ws s).olen = s.olen := rfl
@[simp] theorem openWindow_op (ws : List Word) (s : State) : (openWindow ws s).op = s.op := rfl
@[simp] theorem openWindow_fmtOpen (ws : List Word) (s : State) : (openWindow ws s).fmtOpen = s.fmtOpen := rfl
@[simp] theorem openWindow_fmtNlinks (ws : List Word) (s : State) : (openWindow ws s).fmtNlinks = s.fmtNlinks := rfl
@[simp] theorem openWindow_log (ws : List Word) (s : State) : (openWindow ws s).log = s.log := rfl
@[simp] theorem openWindow_cmd (ws : List Word) (s : State) : (openWindow ws s).cmd = s.cmd := rfl
@[simp] theorem openWindow_arg0 (ws : List Word) (s : State) : (openWindow ws s).arg0 = s.arg0 := rfl
@[simp] theorem openWindow_arg1 (ws : List Word) (s : State) : (openWindow ws s).arg1 = s.arg1 := rfl
@[simp] theorem openWindow_arg2 (ws : List Word) (s : State) : (openWindow ws s).arg2 = s.arg2 := rfl
@[simp] theorem openWindow_arg3 (ws : List Word) (s : State) : (openWindow ws s).arg3 = s.arg3 := rfl
@[simp] theorem openWindow_fault (ws : List Word) (s : State) : (openWindow ws s).fault = s.fault := rfl
@[simp] theorem openWindow_faultInfo (ws : List Word) (s : State) : (openWindow ws s).faultInfo = s.faultInfo := rfl
@[simp] theorem openWindow_faultOp (ws : List Word) (s : State) : (openWindow ws s).faultOp = s.faultOp := rfl
@[simp] theorem openWindow_cfgNlinks (ws : List Word) (s : State) : (openWindow ws s).cfgNlinks = s.cfgNlinks := rfl
@[simp] theorem openWindow_cfgZsEn (ws : List Word) (s : State) : (openWindow ws s).cfgZsEn = s.cfgZsEn := rfl
@[simp] theorem openWindow_strmPos (ws : List Word) (s : State) : (openWindow ws s).strmPos = s.strmPos := rfl
@[simp] theorem openWindow_strmEof (ws : List Word) (s : State) : (openWindow ws s).strmEof = s.strmEof := rfl
@[simp] theorem openWindow_params (ws : List Word) (s : State) : (openWindow ws s).params = s.params := rfl
@[simp] theorem openWindow_strm (ws : List Word) (s : State) : (openWindow ws s).strm = s.strm := rfl
@[simp] theorem openWindow_script (ws : List Word) (s : State) : (openWindow ws s).script = s.script := rfl
@[simp] theorem openWindow_frame (ws : List Word) (s : State) : (openWindow ws s).frame = s.frame := rfl
@[simp] theorem openWindow_draws (ws : List Word) (s : State) : (openWindow ws s).draws = s.draws := rfl

/-! ### `spoil`: what no fault touches -/

@[simp] theorem spoil_samp (dst : Dest) (s : State) : (spoil dst s).samp = s.samp := by
  cases dst <;> rfl
@[simp] theorem spoil_crc8 (dst : Dest) (s : State) : (spoil dst s).crc8 = s.crc8 := by
  cases dst <;> rfl
@[simp] theorem spoil_fmtNlinks (dst : Dest) (s : State) : (spoil dst s).fmtNlinks = s.fmtNlinks := by
  cases dst <;> rfl
@[simp] theorem spoil_log (dst : Dest) (s : State) : (spoil dst s).log = s.log := by
  cases dst <;> rfl
@[simp] theorem spoil_cmd (dst : Dest) (s : State) : (spoil dst s).cmd = s.cmd := by
  cases dst <;> rfl
@[simp] theorem spoil_arg0 (dst : Dest) (s : State) : (spoil dst s).arg0 = s.arg0 := by
  cases dst <;> rfl
@[simp] theorem spoil_arg1 (dst : Dest) (s : State) : (spoil dst s).arg1 = s.arg1 := by
  cases dst <;> rfl
@[simp] theorem spoil_arg2 (dst : Dest) (s : State) : (spoil dst s).arg2 = s.arg2 := by
  cases dst <;> rfl
@[simp] theorem spoil_arg3 (dst : Dest) (s : State) : (spoil dst s).arg3 = s.arg3 := by
  cases dst <;> rfl
@[simp] theorem spoil_fault (dst : Dest) (s : State) : (spoil dst s).fault = s.fault := by
  cases dst <;> rfl
@[simp] theorem spoil_faultInfo (dst : Dest) (s : State) : (spoil dst s).faultInfo = s.faultInfo := by
  cases dst <;> rfl
@[simp] theorem spoil_faultOp (dst : Dest) (s : State) : (spoil dst s).faultOp = s.faultOp := by
  cases dst <;> rfl
@[simp] theorem spoil_cfgNlinks (dst : Dest) (s : State) : (spoil dst s).cfgNlinks = s.cfgNlinks := by
  cases dst <;> rfl
@[simp] theorem spoil_cfgZsEn (dst : Dest) (s : State) : (spoil dst s).cfgZsEn = s.cfgZsEn := by
  cases dst <;> rfl
@[simp] theorem spoil_strmPos (dst : Dest) (s : State) : (spoil dst s).strmPos = s.strmPos := by
  cases dst <;> rfl
@[simp] theorem spoil_strmEof (dst : Dest) (s : State) : (spoil dst s).strmEof = s.strmEof := by
  cases dst <;> rfl
@[simp] theorem spoil_params (dst : Dest) (s : State) : (spoil dst s).params = s.params := by
  cases dst <;> rfl
@[simp] theorem spoil_strm (dst : Dest) (s : State) : (spoil dst s).strm = s.strm := by
  cases dst <;> rfl
@[simp] theorem spoil_script (dst : Dest) (s : State) : (spoil dst s).script = s.script := by
  cases dst <;> rfl
@[simp] theorem spoil_frame (dst : Dest) (s : State) : (spoil dst s).frame = s.frame := by
  cases dst <;> rfl

/-! ### `abort` -/

@[simp] theorem abort_samp (dst : Dest) (o : BitVec 6) (e : Raise) (s : State) :
    (abort dst o e s).samp = s.samp := spoil_samp dst s
@[simp] theorem abort_crc8 (dst : Dest) (o : BitVec 6) (e : Raise) (s : State) :
    (abort dst o e s).crc8 = s.crc8 := spoil_crc8 dst s
@[simp] theorem abort_fmtNlinks (dst : Dest) (o : BitVec 6) (e : Raise) (s : State) :
    (abort dst o e s).fmtNlinks = s.fmtNlinks := spoil_fmtNlinks dst s
@[simp] theorem abort_log (dst : Dest) (o : BitVec 6) (e : Raise) (s : State) :
    (abort dst o e s).log = s.log := spoil_log dst s
@[simp] theorem abort_cmd (dst : Dest) (o : BitVec 6) (e : Raise) (s : State) :
    (abort dst o e s).cmd = s.cmd := spoil_cmd dst s
@[simp] theorem abort_arg0 (dst : Dest) (o : BitVec 6) (e : Raise) (s : State) :
    (abort dst o e s).arg0 = s.arg0 := spoil_arg0 dst s
@[simp] theorem abort_arg1 (dst : Dest) (o : BitVec 6) (e : Raise) (s : State) :
    (abort dst o e s).arg1 = s.arg1 := spoil_arg1 dst s
@[simp] theorem abort_arg2 (dst : Dest) (o : BitVec 6) (e : Raise) (s : State) :
    (abort dst o e s).arg2 = s.arg2 := spoil_arg2 dst s
@[simp] theorem abort_arg3 (dst : Dest) (o : BitVec 6) (e : Raise) (s : State) :
    (abort dst o e s).arg3 = s.arg3 := spoil_arg3 dst s
@[simp] theorem abort_fault (dst : Dest) (o : BitVec 6) (e : Raise) (s : State) :
    (abort dst o e s).fault = some e.kind := rfl
@[simp] theorem abort_faultInfo (dst : Dest) (o : BitVec 6) (e : Raise) (s : State) :
    (abort dst o e s).faultInfo = BitVec.ofNat 32 e.info := rfl
@[simp] theorem abort_faultOp (dst : Dest) (o : BitVec 6) (e : Raise) (s : State) :
    (abort dst o e s).faultOp = o := rfl
@[simp] theorem abort_cfgNlinks (dst : Dest) (o : BitVec 6) (e : Raise) (s : State) :
    (abort dst o e s).cfgNlinks = s.cfgNlinks := spoil_cfgNlinks dst s
@[simp] theorem abort_cfgZsEn (dst : Dest) (o : BitVec 6) (e : Raise) (s : State) :
    (abort dst o e s).cfgZsEn = s.cfgZsEn := spoil_cfgZsEn dst s
@[simp] theorem abort_strmPos (dst : Dest) (o : BitVec 6) (e : Raise) (s : State) :
    (abort dst o e s).strmPos = s.strmPos := spoil_strmPos dst s
@[simp] theorem abort_strmEof (dst : Dest) (o : BitVec 6) (e : Raise) (s : State) :
    (abort dst o e s).strmEof = s.strmEof := spoil_strmEof dst s
@[simp] theorem abort_params (dst : Dest) (o : BitVec 6) (e : Raise) (s : State) :
    (abort dst o e s).params = s.params := spoil_params dst s
@[simp] theorem abort_strm (dst : Dest) (o : BitVec 6) (e : Raise) (s : State) :
    (abort dst o e s).strm = s.strm := spoil_strm dst s
@[simp] theorem abort_script (dst : Dest) (o : BitVec 6) (e : Raise) (s : State) :
    (abort dst o e s).script = s.script := spoil_script dst s
@[simp] theorem abort_frame (dst : Dest) (o : BitVec 6) (e : Raise) (s : State) :
    (abort dst o e s).frame = s.frame := spoil_frame dst s

end Sys2Proof.Machine
end

