-- ==== Sys2Proof/Laws/Ops.lean ====
section
/-! SUPPORT. For each shared operation, what it does when it can run, and everything it can do when it answers a next
state; the meanings are read through these, not unfolded. -/

namespace Sys2Proof.Machine

/-! ### When an operation runs -/

theorem whenIdle_of_idle {s : State} (h : Idle s) (k : Result) : whenIdle s k = k := by
  simp only [whenIdle, show s.fault = none from h, Option.isSome_none, Bool.false_eq_true, if_false]

theorem whenIdle_of_fault {s : State} (h : s.fault ≠ none) (k : Result) : whenIdle s k = .next s := by
  simp only [whenIdle, Option.isSome_iff_ne_none.2 h, if_true]

theorem whenIdle_next {s t : State} {k : Result} (h : whenIdle s k = .next t) :
    (s.fault ≠ none ∧ t = s) ∨ (Idle s ∧ k = .next t) := by
  by_cases hf : s.fault = none
  · exact .inr ⟨hf, by rwa [whenIdle_of_idle hf] at h⟩
  · rw [whenIdle_of_fault hf] at h
    cases h
    exact .inl ⟨hf, rfl⟩

theorem onSpan_of_ready {s : State} (h : Ready s) (dst : Dest) (op : BitVec 6) (k : List Word → Result) :
    onSpan dst op s k = k (spanWords s) := by
  rw [onSpan, whenIdle_of_idle h.1, if_neg (Nat.not_lt.2 h.2)]

theorem onSpan_next {dst : Dest} {op : BitVec 6} {s t : State} {k : List Word → Result}
    (h : onSpan dst op s k = .next t) :
    (s.fault ≠ none ∧ t = s)
      ∨ (Idle s ∧ s.ilen < s.spanBase + s.spanLen
          ∧ t = abort dst op ⟨.lengthError, s.spanBase + s.spanLen⟩ s)
      ∨ (Ready s ∧ k (spanWords s) = .next t) := by
  rcases whenIdle_next h with h | ⟨hi, h⟩
  · exact .inl h
  · split at h
    · cases h
      exact .inr (.inl ⟨hi, ‹_›, rfl⟩)
    · exact .inr (.inr ⟨⟨hi, Nat.le_of_not_lt ‹_›⟩, h⟩)

theorem onElement_of_ahead {s : State} {look code n : Nat} (h : Ready s) (hl : s.p + look ≤ 32 * s.spanLen)
    (hn : s.p + n ≤ 32 * s.spanLen) (dst : Dest) (op : BitVec 6) (k : List Word → State → Result) :
    onElement dst op look code n s k = k (spanWords s) { s with p := s.p + n } := by
  rw [onElement, onSpan_of_ready h, if_neg (Nat.not_lt.2 hl), if_neg (Nat.not_lt.2 hn)]

theorem onWord_of_ahead {s : State} (h : WordAhead s) (dst : Dest) (op : BitVec 6)
    (k : List Word → State → Result) : onWord dst op s k = k (spanWords s) { s with p := s.p + 32 } :=
  onElement_of_ahead h.1 h.2 h.2 dst op k

/-- An element at the cursor: nothing while a fault is pending; a structural error of kind `LengthError`, at one of
three numbers; or the element's own effect with the cursor past it. -/
theorem onElement_next {dst : Dest} {op : BitVec 6} {look code n : Nat} {s t : State}
    {k : List Word → State → Result} (h : onElement dst op look code n s k = .next t) :
    (s.fault ≠ none ∧ t = s)
      ∨ (Idle s ∧ ∃ info, t = abort dst op ⟨.lengthError, info⟩ s)
      ∨ (Ready s ∧ s.p + n ≤ 32 * s.spanLen ∧ k (spanWords s) { s with p := s.p + n } = .next t) := by
  rcases onSpan_next h with h | ⟨hi, -, ht⟩ | ⟨hr, h⟩
  · exact .inl h
  · exact .inr (.inl ⟨hi, _, ht⟩)
  · split at h
    · cases h
      exact .inr (.inl ⟨hr.1, _, rfl⟩)
    · split at h
      · cases h
        exact .inr (.inl ⟨hr.1, _, rfl⟩)
      · exact .inr (.inr ⟨hr, Nat.le_of_not_lt ‹_›, h⟩)

theorem finish_next {α : Type} {dst : Dest} {op : BitVec 6} {s t : State} {r : Run α} {put : α → State → State}
    (h : finish dst op s r put = .next t) :
    (∃ a c, r = .done a c ∧ t = put a (s.withAcc c)) ∨ (∃ e c, r = .stop e c ∧ t = abort dst op e (s.withAcc c)) := by
  cases r with
  | done a c => cases h; exact .inl ⟨a, c, rfl, rfl⟩
  | stop e c => cases h; exact .inr ⟨e, c, rfl, rfl⟩

theorem finishFmt_next {op : BitVec 6} {s t : State} {r : Except Raise BitBuf} {put : State → State}
    (h : finishFmt op s r put = .next t) :
    (∃ f, r = .ok f ∧ t = put (s.withFmt f)) ∨ (∃ e, r = .error e ∧ t = abort .fmt op e s) := by
  cases r with
  | ok f => cases h; exact .inl ⟨f, rfl, rfl⟩
  | error e => cases h; exact .inr ⟨e, rfl, rfl⟩

/-! ### The write primitive -/

@[simp] theorem writeBit_op (b : Bool) (f : BitBuf) : (writeBit b f).op = f.op + 1 := rfl

theorem writeBit_wf (b : Bool) {f : BitBuf} (h : Memory.wf f.mem = true) : Memory.wf (writeBit b f).mem = true := by
  unfold writeBit
  dsimp only
  split
  · exact Memory.wf_writeWord (Memory.wf_writeWord h _ _) _ _
  · exact Memory.wf_writeWord h _ _

@[simp] theorem writeBits_op (n v : Nat) (f : BitBuf) : (writeBits n v f).op = f.op + n := by
  induction n generalizing f with
  | zero => rfl
  | succ n ih => simp only [writeBits, ih, writeBit_op]; omega

theorem writeBits_wf (n v : Nat) {f : BitBuf} (h : Memory.wf f.mem = true) :
    Memory.wf (writeBits n v f).mem = true := by
  induction n generalizing f with
  | zero => exact h
  | succ n ih => exact ih (writeBit_wf _ h)

/-- A field that fits is written and moves the write cursor by its width. -/
theorem writeField_ok {pr : Params} {x : Field} {f f' : BitBuf} (h : writeField pr x f = .ok f') :
    f' = writeBits x.n x.v f ∧ f'.op = f.op + x.n ∧ f'.op ≤ 32 * pr.obufWords := by
  unfold writeField at h
  split at h
  · cases h
  · cases h
    simp only [writeBits_op, true_and]
    omega

/-- Fields written in order keep the canonical form, move the write cursor forward and stay within `OBUF`. -/
theorem writeFields_ok {pr : Params} {xs : List Field} {f f' : BitBuf} (h : writeFields pr xs f = .ok f')
    (hm : Memory.wf f.mem = true) (ho : f.op ≤ 32 * pr.obufWords) :
    Memory.wf f'.mem = true ∧ f.op ≤ f'.op ∧ f'.op ≤ 32 * pr.obufWords := by
  induction xs generalizing f with
  | nil => cases h; exact ⟨hm, Nat.le_refl _, ho⟩
  | cons x xs ih =>
    unfold writeFields at h
    split at h
    · cases h
    · obtain ⟨hf, hop, hle⟩ := writeField_ok ‹_›
      obtain ⟨h1, h2, h3⟩ := ih h (by rw [hf]; exact writeBits_wf _ _ hm) hle
      exact ⟨h1, by omega, h3⟩

/-- Bits appended to the frame keep its canonical form. -/
theorem appendFrame_wf (n v : Nat) {s : State} (h : Memory.wf s.frame.mem = true) :
    Memory.wf (appendFrame n v s).frame.mem = true :=
  writeBits_wf n v h

end Sys2Proof.Machine
end

