-- ==== Sys2Proof/Laws/PerInstr.lean ====
section
/-! SUPPORT. A statement about every instruction, proved per constructor: its coded form depends on no parameter but
`MS_LAYOUT` (R84), so that a coded instruction means the same under every other choice of R4. -/

namespace Sys2Proof.Laws.EncodeByLayout

/-- The coded form of an instruction under parameters that agree on `MS_LAYOUT` is the same. -/
def Statement (i : Instr) : Prop :=
  ∀ p q : Params, p.msLayout = q.msLayout → encode p i = encode q i

theorem sample {tc tp a m t} : Statement (.sample tc tp a m t) := fun _ _ _ => rfl
theorem daqHdr {lead bx event orbit f6 f5 f4 evt} : Statement (.daqHdr lead bx event orbit f6 f5 f4 evt) := fun _ _ _ => rfl
theorem daqCm {ignored cm0 cm1} : Statement (.daqCm ignored cm0 cm1) := fun _ _ _ => rfl
theorem daqCrc {crc} : Statement (.daqCrc crc) := fun _ _ _ => rfl
theorem trigSoft {soft} : Statement (.trigSoft soft) := fun _ _ _ => rfl
theorem trigData {iBx sync s0 s1 s2 s3} : Statement (.trigData iBx sync s0 s1 s2 s3) := fun _ _ _ => rfl
theorem rocLen {total} : Statement (.rocLen total) := fun _ _ _ => rfl
theorem rocLtab {k hi lo} : Statement (.rocLtab k hi lo) := fun _ _ _ => rfl
theorem econdHdr0 {marker length passthrough expected ht ebo m truncated hamming} : Statement (.econdHdr0 marker length passthrough expected ht ebo m truncated hamming) := fun _ _ _ => rfl
theorem econdHdr1 {bx l1a orbit subErr rr crc} : Statement (.econdHdr1 bx l1a orbit subErr rr crc) := fun _ _ _ => rfl
theorem econdTrl {crc} : Statement (.econdTrl crc) := fun _ _ _ => rfl
theorem erxHdr0 {stat ham isEmpty cm0 cm1 chmapHi} : Statement (.erxHdr0 stat ham isEmpty cm0 cm1 chmapHi) := fun _ _ _ => rfl
theorem erxHdr1 {chmapLo} : Statement (.erxHdr1 chmapLo) := fun _ _ _ => rfl
theorem zs0000 {slot a m} : Statement (.zs0000 slot a m) := fun _ _ _ => rfl
theorem zs0001 {slot padBits m} : Statement (.zs0001 slot padBits m) := fun _ _ _ => rfl
theorem zs0010 {slot a m} : Statement (.zs0010 slot a m) := fun _ _ _ => rfl
theorem zs0011 {slot m t} : Statement (.zs0011 slot m t) := fun _ _ _ => rfl
theorem fp01 {slot a m t} : Statement (.fp01 slot a m t) := fun _ _ _ => rfl
theorem fp10 {slot a m t} : Statement (.fp10 slot a m t) := fun _ _ _ => rfl
theorem fp11 {slot a m t} : Statement (.fp11 slot a m t) := fun _ _ _ => rfl
theorem ptSample {slot word} : Statement (.ptSample slot word) := fun _ _ _ => rfl
theorem msHdr {flag iSample soi length} : Statement (.msHdr flag iSample soi length) := fun _ _ h => by simp only [encode, h]
theorem markRocStart0 : Statement (.markRocStart0) := fun _ _ _ => rfl
theorem markRocStart1 : Statement (.markRocStart1) := fun _ _ _ => rfl
theorem markRocEnd0 : Statement (.markRocEnd0) := fun _ _ _ => rfl
theorem markRocEnd1 : Statement (.markRocEnd1) := fun _ _ _ => rfl
theorem markMsStart : Statement (.markMsStart) := fun _ _ _ => rfl
theorem markMsEnd : Statement (.markMsEnd) := fun _ _ _ => rfl
theorem msPrefix {n} : Statement (.msPrefix n) := fun _ _ _ => rfl
theorem pad : Statement (.pad) := fun _ _ _ => rfl
theorem crc32 {a b} : Statement (.crc32 a b) := fun _ _ _ => rfl
theorem crc8 : Statement (.crc8) := fun _ _ _ => rfl
theorem raw {word} : Statement (.raw word) := fun _ _ _ => rfl
theorem nop : Statement (.nop) := fun _ _ _ => rfl
theorem clrFault : Statement (.clrFault) := fun _ _ _ => rfl
theorem clrLog : Statement (.clrLog) := fun _ _ _ => rfl
theorem rdBits : Statement (.rdBits) := fun _ _ _ => rfl
theorem peekBits : Statement (.peekBits) := fun _ _ _ => rfl
theorem seekWord : Statement (.seekWord) := fun _ _ _ => rfl
theorem seekByte : Statement (.seekByte) := fun _ _ _ => rfl
theorem alignWord : Statement (.alignWord) := fun _ _ _ => rfl
theorem atEnd : Statement (.atEnd) := fun _ _ _ => rfl
theorem setSpan : Statement (.setSpan) := fun _ _ _ => rfl
theorem sampleDec : Statement (.sampleDec) := fun _ _ _ => rfl
theorem sampleEnc : Statement (.sampleEnc) := fun _ _ _ => rfl
theorem crc32Span : Statement (.crc32Span) := fun _ _ _ => rfl
theorem crc8U64 : Statement (.crc8U64) := fun _ _ _ => rfl
theorem daqFrom : Statement (.daqFrom) := fun _ _ _ => rfl
theorem trigFrom : Statement (.trigFrom) := fun _ _ _ => rfl
theorem trigCsum : Statement (.trigCsum) := fun _ _ _ => rfl
theorem trigLsum : Statement (.trigLsum) := fun _ _ _ => rfl
theorem erxUnpack : Statement (.erxUnpack) := fun _ _ _ => rfl
theorem econdFrom : Statement (.econdFrom) := fun _ _ _ => rfl
theorem msFrom : Statement (.msFrom) := fun _ _ _ => rfl
theorem rocFrom : Statement (.rocFrom) := fun _ _ _ => rfl
theorem fmtStart : Statement (.fmtStart) := fun _ _ _ => rfl
theorem fmtAdd : Statement (.fmtAdd) := fun _ _ _ => rfl
theorem fmtFinish : Statement (.fmtFinish) := fun _ _ _ => rfl
theorem scanRoc : Statement (.scanRoc) := fun _ _ _ => rfl
theorem scanMs : Statement (.scanMs) := fun _ _ _ => rfl

end Sys2Proof.Laws.EncodeByLayout
end

