-- ==== Sys2Proof/Laws/Stream.lean ====
section
/-! SUPPORT. The stream read word by word, and for each stream operation everything it can do when it answers a next
state. -/

namespace Sys2Proof

/-! ### The content of the stream -/

/-- The stream has no word at a position exactly when it is finite and ends before it. -/
theorem Stream.word_eq_none {st : Stream} {i : Nat} :
    st.word i = none ↔ st.cycle = [] ∧ st.words.length ≤ i := by
  unfold Stream.word
  split
  · simp; omega
  · rename_i h
    rw [List.getElem?_eq_none_iff]
    rcases hc : st.cycle with _ | ⟨c, cs⟩
    · simp; omega
    · have := Nat.mod_lt (i - st.words.length) (show 0 < (c :: cs).length by simp)
      simp only [reduceCtorEq, false_and, iff_false]
      omega

/-- Word `j` of a read is the stream's. -/
theorem Stream.getElem?_read (st : Stream) (i : Nat) {n j : Nat} (hj : j < n) :
    (st.read i n)[j]? = st.word (i + j) := by
  induction n generalizing i j with
  | zero => omega
  | succ n ih =>
    unfold Stream.read
    split
    · rename_i h
      have := Stream.word_eq_none.1 h
      rw [List.getElem?_nil, Stream.word_eq_none.2 ⟨this.1, by omega⟩]
    · rename_i w h
      cases j with
      | zero => simpa using h.symm
      | succ j =>
        rw [List.getElem?_cons_succ, ih (i + 1) (by omega)]
        congr 1
        omega

/-- A read of an infinite stream has every word asked for; of a finite one, those there are. -/
theorem Stream.length_read (st : Stream) (i n : Nat) :
    (st.read i n).length = if st.cycle = [] then min n (st.words.length - i) else n := by
  induction n generalizing i with
  | zero => simp [Stream.read]
  | succ n ih =>
    unfold Stream.read
    split
    · rename_i h
      have := Stream.word_eq_none.1 h
      rw [if_pos this.1, List.length_nil]
      omega
    · rename_i w h
      rw [List.length_cons, ih (i + 1)]
      split
      · have : ¬ st.words.length ≤ i := fun hl => by
          rw [Stream.word_eq_none.2 ⟨‹_›, hl⟩] at h
          cases h
        omega
      · rfl

/-- Past the listed words an infinite stream repeats. -/
theorem Stream.word_add_cycle {st : Stream} {i : Nat} (h : st.words.length ≤ i) :
    st.word (i + st.cycle.length) = st.word i := by
  unfold Stream.word
  rw [if_neg (by omega), if_neg (by omega), Nat.sub_add_comm h, Nat.add_mod_right]

/-- Every word and every adjacent pair of words the stream has from a position on stands, as early or earlier, within
the horizon of that position. -/
theorem Stream.within_horizon (st : Stream) (i : Nat) {j : Nat} (h : st.word (i + j) ≠ none) :
    ∃ j', j' ≤ j ∧ j' + 2 < st.horizon i
      ∧ st.word (i + j') = st.word (i + j) ∧ st.word (i + j' + 1) = st.word (i + j + 1) := by
  induction j using Nat.strongRecOn with
  | _ j ih =>
    by_cases hj : j + 2 < st.horizon i
    · exact ⟨j, Nat.le_refl _, hj, rfl, rfl⟩
    · simp only [Stream.horizon] at hj
      by_cases hc : st.cycle = []
      · exfalso
        rw [hc] at hj
        exact h (Stream.word_eq_none.2 ⟨hc, by simp at hj; omega⟩)
      · have hpos : 0 < st.cycle.length := List.length_pos_of_ne_nil hc
        have e (k : Nat) (hk : st.words.length + st.cycle.length ≤ k) :
            st.word (k - st.cycle.length) = st.word k := by
          rw [← Stream.word_add_cycle (show st.words.length ≤ k - st.cycle.length by omega)]
          congr 1
          omega
        have e0 := e (i + j) (by omega)
        have e1 := e (i + j + 1) (by omega)
        rw [show i + j - st.cycle.length = i + (j - st.cycle.length) by omega] at e0
        rw [show i + j + 1 - st.cycle.length = i + (j - st.cycle.length) + 1 by omega] at e1
        obtain ⟨j', hle, hlt, h0, h1⟩ := ih (j - st.cycle.length) (by omega) (by rwa [e0])
        exact ⟨j', by omega, hlt, h0.trans e0, h1.trans e1⟩

end Sys2Proof

namespace Sys2Proof.Machine

/-! ### The search for a start marker -/

/-- A search that fails has seen no pair, with `prev` before the words. -/
theorem findRocStart_none {prev : Option Word} {used : Nat} {ws : List Word}
    (h : findRocStart prev used ws = none) (j : Nat) :
    ¬ (ws[j]? = some markRocStart0Word ∧ ws[j + 1]? = some markRocStart1Word)
      ∧ ¬ (prev = some markRocStart0Word ∧ ws[0]? = some markRocStart1Word) := by
  induction ws generalizing prev used j with
  | nil => simp
  | cons w ws ih =>
    unfold findRocStart at h
    split at h
    · cases h
    · rename_i hn
      refine ⟨?_, by simpa using hn⟩
      cases j with
      | zero => simpa using (ih h 0).2
      | succ j => simpa using (ih h j).1

/-- A search that succeeds has found the first pair and consumed up to and with it. -/
theorem findRocStart_some {used used' : Nat} {ws : List Word} {prev : Option Word}
    (h : findRocStart prev used ws = some used') :
    (prev = some markRocStart0Word ∧ ws[0]? = some markRocStart1Word ∧ used' = used + 1)
      ∨ ¬ (prev = some markRocStart0Word ∧ ws[0]? = some markRocStart1Word)
        ∧ ∃ j, used' = used + j + 2
        ∧ ws[j]? = some markRocStart0Word ∧ ws[j + 1]? = some markRocStart1Word
        ∧ ∀ k, k < j → ¬ (ws[k]? = some markRocStart0Word ∧ ws[k + 1]? = some markRocStart1Word) := by
  induction ws generalizing prev used with
  | nil => simp [findRocStart] at h
  | cons w ws ih =>
    unfold findRocStart at h
    split at h
    · rename_i hp
      cases h
      exact .inl ⟨hp.1, by simp [hp.2], rfl⟩
    · rename_i hn
      refine .inr ⟨by simpa using hn, ?_⟩
      obtain ⟨hw, h0, rfl⟩ | ⟨hw, j, rfl, h0, h1, hk⟩ := ih h
      · exact ⟨0, by omega, by simpa using hw, by simpa using h0, by omega⟩
      · refine ⟨j + 1, by omega, by simpa using h0, by simpa using h1, fun k hlt => ?_⟩
        cases k with
        | zero => simpa using hw
        | succ k => simpa using hk k (by omega)

theorem findMsStart_none {used : Nat} {ws : List Word} (h : findMsStart used ws = none) (j : Nat) :
    ws[j]? ≠ some markMsStartWord := by
  induction ws generalizing used j with
  | nil => simp
  | cons w ws ih =>
    unfold findMsStart at h
    split at h
    · cases h
    · cases j with
      | zero => simpa using ‹w ≠ _›
      | succ j => simpa using ih h j

theorem findMsStart_some {used used' : Nat} {ws : List Word} (h : findMsStart used ws = some used') :
    ∃ j, used' = used + j + 1 ∧ ws[j]? = some markMsStartWord ∧ ∀ k, k < j → ws[k]? ≠ some markMsStartWord := by
  induction ws generalizing used with
  | nil => simp [findMsStart] at h
  | cons w ws ih =>
    unfold findMsStart at h
    split at h
    · rename_i hw
      cases h
      exact ⟨0, rfl, by simp [hw], by omega⟩
    · obtain ⟨j, rfl, h0, hk⟩ := ih h
      refine ⟨j + 1, by omega, by simpa using h0, fun k hlt => ?_⟩
      cases k with
      | zero => simpa using ‹w ≠ _›
      | succ k => simpa using hk k (by omega)

/-- On a finite stream a search looks through exactly the words it has left. -/
theorem searchWords_length_of_finite {s : State} (h : s.strm.cycle = []) :
    (searchWords s).length = s.strm.words.length - s.strmPos := by
  rw [searchWords, Stream.length_read, if_pos h, Stream.horizon, h]
  simp only [List.length_nil]
  omega

/-- The first word a search looks at is the stream's next one. -/
theorem searchWords_eq_cons {s : State} {w : Word} (h : strmNext s = some w) :
    searchWords s = w :: (searchWords s).tail := by
  simp only [searchWords, Stream.horizon, Stream.read, show s.strm.word s.strmPos = some w from h, List.tail_cons]

/-! ### The window -/

theorem strmNext_eq_none {s : State} : strmNext s = none ↔ s.strm.cycle = [] ∧ s.strm.words.length ≤ s.strmPos :=
  Stream.word_eq_none

theorem takeWindow_next {op : BitVec 6} {head : List Word} {n : Nat} {s t : State}
    (h : takeWindow op head n s = .next t) :
    (s.strm.cycle = [] ∧ s.strm.words.length - s.strmPos < n
        ∧ t = failScan op ⟨.lengthError, (meetStreamEnd s).strmPos⟩ (meetStreamEnd s))
      ∨ ((s.strm.cycle = [] → n ≤ s.strm.words.length - s.strmPos)
        ∧ t = openWindow (head ++ s.strm.read s.strmPos n) (consumeWords n s)) := by
  have hl := Stream.length_read s.strm s.strmPos n
  simp only [takeWindow, failAtEnd] at h
  by_cases hc : s.strm.cycle = []
  · rw [if_pos hc] at hl
    split at h <;> cases h
    · exact .inl ⟨hc, by omega, rfl⟩
    · exact .inr ⟨fun _ => by omega, rfl⟩
  · rw [if_neg hc] at hl
    rw [if_neg (by omega)] at h
    cases h
    exact .inr ⟨fun h => absurd h hc, rfl⟩

/-- After the start pair: the stream ends, a length out of range, or the rest of the window. -/
theorem rocWindow_next {s t : State} (h : rocWindow s = .next t) :
    (strmNext s = none ∧ t = failScan 0x20#6 ⟨.lengthError, (meetStreamEnd s).strmPos⟩ (meetStreamEnd s))
      ∨ ∃ n, strmNext s = some n
        ∧ ((n.toNat = 0 ∨ s.params.maxWindow < n.toNat)
              ∧ t = failScan 0x20#6 ⟨.badLength, n.toNat⟩ (consumeWords 1 s)
            ∨ 1 ≤ n.toNat ∧ n.toNat ≤ s.params.maxWindow
              ∧ takeWindow 0x20#6 [n] (n.toNat - 1) (consumeWords 1 s) = .next t) := by
  unfold rocWindow at h
  split at h
  · cases h
    exact .inl ⟨‹_›, rfl⟩
  · refine .inr ⟨_, ‹_›, ?_⟩
    split at h
    · cases h
      exact .inl ⟨‹_›, rfl⟩
    · exact .inr ⟨by omega, by omega, h⟩

theorem msWindow_next {n : Word} {s t : State} (h : msWindow n s = .next t) :
    (s.params.maxWindow < n.toNat ∧ t = failScan 0x21#6 ⟨.badLength, n.toNat⟩ s)
      ∨ n.toNat ≤ s.params.maxWindow ∧ takeWindow 0x21#6 [] n.toNat s = .next t := by
  unfold msWindow at h
  split at h
  · cases h
    exact .inl ⟨‹_›, rfl⟩
  · exact .inr ⟨Nat.le_of_not_lt ‹_›, h⟩

/-! ### The scans -/

theorem scanFoundNothing_next {s t : State} (h : scanFoundNothing s = .next t) :
    s.strm.cycle = [] ∧ t = { meetStreamEnd s with res := 0#32 } := by
  unfold scanFoundNothing at h
  split at h
  · cases h
    exact ⟨‹_›, rfl⟩
  · cases h

theorem afterRocSearch_next {found : Option Nat} {s t : State} (h : afterRocSearch found s = .next t) :
    (found = none ∧ s.strm.cycle = [] ∧ t = { meetStreamEnd s with res := 0#32 })
      ∨ ∃ used, found = some used ∧ rocWindow (consumeWords used s) = .next t := by
  cases found with
  | none => exact .inl ⟨rfl, scanFoundNothing_next h⟩
  | some used => exact .inr ⟨used, rfl, h⟩

theorem afterMsSearch_next {found : Option Nat} {s t : State} (h : afterMsSearch found s = .next t) :
    (found = none ∧ s.strm.cycle = [] ∧ t = { meetStreamEnd s with res := 0#32 })
      ∨ ∃ used, found = some used ∧ msPrefixAndWindow (consumeWords used s) = .next t := by
  cases found with
  | none => exact .inl ⟨rfl, scanFoundNothing_next h⟩
  | some used => exact .inr ⟨used, rfl, h⟩

end Sys2Proof.Machine
end

