-- ==== Sys2Proof/Tests/Slice0.lean ====
section
/-! SUPPORT. The model's own tests: ill-formed terms refused; words written out from the spec's encodings decoded; the
spec's test vectors (95_test_vectors.md, V<n>); and, for each obligation with hypotheses, states and operands that meet
them, at the ends of their ranges. -/

namespace Sys2Proof.Tests

open Sys2Proof Sys2Proof.Machine

/-! ### States for the tests -/

/-- The machine after reset with `ws` as the current span. -/
def sp (ws : List Word) : State := loadSpan ws State.reset

/-- With arguments. -/
def spArgs (ws : List Word) (a b c d : Word) : State := { sp ws with arg0 := a, arg1 := b, arg2 := c, arg3 := d }

/-- The machine after reset with `ws` as its stream. -/
def stream (ws : List Word) : State := { State.reset with strm := ⟨ws, []⟩ }

/-- The machine after reset with `ws` and then `cycle` over and over as its stream. -/
def endless (ws cycle : List Word) : State := { State.reset with strm := ⟨ws, cycle⟩ }

/-- The host with `ws` as the words of its frame so far. -/
def framed (ws : List Word) : State :=
  { State.reset with frame := ⟨Memory.writeWords [] 0 ws, 32 * ws.length⟩ }

/-- The machine after reset with the host about to do `a`. -/
def about (a : HostAction) : State := { State.reset with script := [a] }

/-- With a fault pending. -/
def faulty (s : State) : State := { s with fault := some .lengthError, faultInfo := 5#32, faultOp := 0x14#6 }

/-- The formatter with a packet of two header words open. -/
def opened (s : State) : State :=
  { s with fmtOpen := true, op := 64, olen := 2, obuf := Memory.writeWords [] 0 [0xAA000000#32, 0x00C26800#32] }

/-- A property of the next state. -/
def after (i : Instr) (s : State) (f : State → Bool) : Bool :=
  match exec i s with
  | .next t => f t
  | .fault _ => false
  | .refused _ => false

/-! ### Well-formedness: a position no frame has is refused, the last one is accepted -/

theorem test_wf_trigData : (Instr.trigData 4 0#4 0#7 0#7 0#7 0#7).wellFormed = false
    ∧ (Instr.trigData 3 0#4 0#7 0#7 0#7 0#7).wellFormed = true := by decide
theorem test_wf_rocLtab : (Instr.rocLtab 3 0#16 0#16).wellFormed = false
    ∧ (Instr.rocLtab 2 0#16 0#16).wellFormed = true := by decide
theorem test_wf_zs0000 : (Instr.zs0000 37 0#10 0#10).wellFormed = false := by decide
theorem test_wf_zs0001 : (Instr.zs0001 37 0#2 0#10).wellFormed = false := by decide
theorem test_wf_zs0010 : (Instr.zs0010 37 0#10 0#10).wellFormed = false := by decide
theorem test_wf_zs0011 : (Instr.zs0011 37 0#10 0#10).wellFormed = false := by decide
theorem test_wf_fp01 : (Instr.fp01 37 0#10 0#10 0#10).wellFormed = false := by decide
theorem test_wf_fp10 : (Instr.fp10 37 0#10 0#10 0#10).wellFormed = false := by decide
theorem test_wf_fp11 : (Instr.fp11 37 0#10 0#10 0#10).wellFormed = false
    ∧ (Instr.fp11 36 0#10 0#10 0#10).wellFormed = true := by decide
theorem test_wf_ptSample : (Instr.ptSample 37 0#32).wellFormed = false
    ∧ (Instr.ptSample 36 0#32).wellFormed = true := by decide
theorem test_decode_no_such_place :
    decode Params.default (.wire (.trigData 4) 0#32) = .noSuchPlace (.trigData 4)
      ∧ decode Params.default (.wire (.rocLtab 3) 0#32) = .noSuchPlace (.rocLtab 3)
      ∧ decode Params.default (.wire (.channel 37) 0#32) = .noSuchPlace (.channel 37)
      ∧ decode Params.default (.wire (.ptSample 37) 0#32) = .noSuchPlace (.ptSample 37) := by decide

/-! ### Decoding, every constructor: words written out from 30_encoding.md -/

/-- R90 and 00_scope.md section 6. -/
theorem test_decode_commands :
    ([(0x00#6, Instr.nop), (0x01#6, .clrFault), (0x02#6, .clrLog), (0x04#6, .rdBits), (0x05#6, .peekBits),
      (0x06#6, .seekWord), (0x07#6, .seekByte), (0x08#6, .alignWord), (0x09#6, .atEnd), (0x0A#6, .setSpan),
      (0x10#6, .sampleDec), (0x11#6, .sampleEnc), (0x12#6, .crc32Span), (0x13#6, .crc8U64), (0x14#6, .daqFrom),
      (0x15#6, .trigFrom), (0x16#6, .trigCsum), (0x17#6, .trigLsum), (0x18#6, .erxUnpack), (0x19#6, .econdFrom),
      (0x1A#6, .msFrom), (0x1B#6, .rocFrom), (0x1C#6, .fmtStart), (0x1D#6, .fmtAdd), (0x1E#6, .fmtFinish),
      (0x20#6, .scanRoc), (0x21#6, .scanMs)].all fun x => decide (decode Params.default (.cmd x.1) = .instr x.2))
      = true := by decide

/-- R323. -/
theorem test_decode_unassigned :
    ([0x03#6, 0x0B#6, 0x0F#6, 0x1F#6, 0x22#6, 0x3F#6].all fun c =>
      decide (decode Params.default (.cmd c) = .unassignedCommand c)) = true := by decide

/-- R62: `Tc Tp A M T`. -/
theorem test_decode_sample :
    decode Params.default (.wire .sample 0b10_0000000001_0000000010_0000000100#32)
      = .instr (.sample true false 1#10 2#10 4#10) := by decide
/-- R63, V3. -/
theorem test_decode_daqHdr :
    decode Params.default (.wire .daqHdr 0b1111_000000001100_001001_101_0_1_0_0101#32)
      = .instr (.daqHdr 0xF#4 12#12 9#6 5#3 false true false 0b0101#4) := by decide
/-- R64, V3. -/
theorem test_decode_daqCm :
    decode Params.default (.wire .daqCm 0b111111110000_0010001010_0000000010#32)
      = .instr (.daqCm 0xFF0#12 138#10 2#10) := by decide
/-- R65, V3. -/
theorem test_decode_daqCrc : decode Params.default (.wire .daqCrc 0x6EA53512#32) = .instr (.daqCrc 0x6EA53512#32) := by
  decide
/-- R67, V16. -/
theorem test_decode_trigSoft :
    decode Params.default (.wire .trigSoft 0x30000001#32) = .instr (.trigSoft 0x30000001#32) := by decide
/-- R66, V16. -/
theorem test_decode_trigData :
    decode Params.default (.wire (.trigData 3) 0b1010_0000101_0001000_1000000_1111111#32)
      = .instr (.trigData 3 0b1010#4 5#7 8#7 64#7 127#7) := by decide
/-- R68, V29. -/
theorem test_decode_roc :
    decode Params.default (.wire .rocLen 0x00000068#32) = .instr (.rocLen 104#32)
      ∧ decode Params.default (.wire (.rocLtab 2) 0x00050006#32) = .instr (.rocLtab 2 5#16 6#16) := by decide
/-- R70: marker, length, P, E, ht, ebo, m, T, hamming. -/
theorem test_decode_econdHdr0 :
    decode Params.default (.wire .econdHdr0 0b101010100_000001011_0_1_10_01_0_1_000011#32)
      = .instr (.econdHdr0 340#9 11#9 false true 2#2 1#2 false true 3#6) := by decide
/-- R71: bx, l1a, orbit, S, rr, crc8. -/
theorem test_decode_econdHdr1 :
    decode Params.default (.wire .econdHdr1 0b000001110101_000010_101_1_00_11111100#32)
      = .instr (.econdHdr1 117#12 2#6 5#3 true 0#2 0xFC#8) := by decide
/-- R72, V24. -/
theorem test_decode_econdTrl :
    decode Params.default (.wire .econdTrl 0xE39995A2#32) = .instr (.econdTrl 0xE39995A2#32) := by decide
/-- R73, R74, V20. -/
theorem test_decode_erxHdr :
    decode Params.default (.wire .erxHdr0 0b111_000_0_0010001010_0000000010_11000#32)
        = .instr (.erxHdr0 7#3 0#3 false 138#10 2#10 0b11000#5)
      ∧ decode Params.default (.wire .erxHdr1 0x001C0025#32) = .instr (.erxHdr1 0x001C0025#32) := by decide
/-- R76 to R79; the bits after a record's end are not read. -/
theorem test_decode_short_records :
    decode Params.default (.wire (.channel 5) 0b0000_1111111111_0000000001_11111111#32)
        = .instr (.zs0000 5 1023#10 1#10)
      ∧ decode Params.default (.wire (.channel 2) 0b0001_10_0101010101_1111111111111111#32)
        = .instr (.zs0001 2 2#2 341#10)
      ∧ decode Params.default (.wire (.channel 20) 0b0010_0000000111_0000001000_00000001#32)
        = .instr (.zs0010 20 7#10 8#10)
      ∧ decode Params.default (.wire (.channel 19) 0b0011_1000000000_1111111111_00000000#32)
        = .instr (.zs0011 19 512#10 1023#10) := by decide
/-- R80 to R82, V20. -/
theorem test_decode_full_records :
    decode Params.default (.wire (.channel 0) 0b01_0000000001_0000000010_0000000011#32)
        = .instr (.fp01 0 1#10 2#10 3#10)
      ∧ decode Params.default (.wire (.channel 35) 0x91188B33#32) = .instr (.fp10 35 273#10 546#10 819#10)
      ∧ decode Params.default (.wire (.channel 18) 0xEAA554F0#32) = .instr (.fp11 18 682#10 341#10 240#10) := by
  decide
/-- R83. -/
theorem test_decode_ptSample :
    decode Params.default (.wire (.ptSample 36) 0xC0000024#32) = .instr (.ptSample 36 0xC0000024#32) := by decide
/-- R84: flag, index, SOI, length. -/
theorem test_decode_msHdr :
    decode Params.default (.wire .msHdr 0b0001_00000000010_1_0000000000001101#32)
      = .instr (.msHdr 1#4 2#11 true 13#16) := by decide
/-- R85. -/
theorem test_decode_markers :
    decode Params.default (.wire (.scan .roc) 0x11888811#32) = .instr .markRocStart0
      ∧ decode Params.default (.wire (.scan .roc) 0xBEEF2025#32) = .instr .markRocStart1
      ∧ decode Params.default (.wire (.scan .roc) 0xD07E2025#32) = .instr .markRocEnd0
      ∧ decode Params.default (.wire (.scan .roc) 0x12345678#32) = .instr .markRocEnd1
      ∧ decode Params.default (.wire (.scan .ms) 0xB33F2025#32) = .instr .markMsStart
      ∧ decode Params.default (.wire (.scan .ms) 0x12345678#32) = .instr .markMsEnd
      ∧ decode Params.default (.wire (.scan .ms) 0x11888811#32) = .notAMarker .ms 0x11888811#32 := by decide
/-- R287, R89. -/
theorem test_decode_prefix_and_pseudo :
    decode Params.default (.wire .msPrefix 0x11#32) = .instr (.msPrefix 17#32)
      ∧ decode Params.default (.wire .pad 0#32) = .instr .pad
      ∧ decode Params.default (.wire (.crc32 2 11) 0#32) = .instr (.crc32 2 11)
      ∧ decode Params.default (.wire .crc8 0#32) = .instr .crc8
      ∧ decode Params.default (.wire (.raw 7#32) 0#32) = .instr (.raw 7#32) := by decide
/-- A table word without its place (log 4). -/
theorem test_decodeTableWord :
    decodeTableWord 8 0x1D = some .fmtAdd ∧ decodeTableWord 16 0x1155 = some (.zs0001 0 0#2 341#10)
      ∧ decodeTableWord 24 0x200702 = some (.zs0010 0 1#10 770#10) ∧ decodeTableWord 8 0x03 = none := by decide

/-! ### Steps -/

theorem test_fetchWord_runs_command :
    (match step (State.reset.withFetchWord 8 0x09) with
      | .next t => decide (t.res = 1#32 ∧ t.cmd = 0x09#6) | _ => false) = true := by decide
theorem test_fetchWord_runs_element :
    (match step (State.reset.withFetchWord 32 0x12345678) with
      | .next t => decide (t.strmPos = 1) | _ => false) = true := by decide
/-- V11. -/
theorem test_sampleDec : after .sampleDec (spArgs [] 0xBFF00C01#32 0 0 0) (fun t =>
    decide (t.samp = ⟨true, false, -1, 3, -1, 1, 0xBFF00C01#32⟩)) = true := by decide
theorem test_sampleEnc : after .sampleEnc (spArgs [] 5#32 100#32 200#32 7#32) (fun t =>
    decide (t.samp.word = 0xC0532007#32)) = true := by decide
/-- V10, steps 10, 11, 14. -/
theorem test_rdBits_straddles : after .rdBits { spArgs [0xE0450058#32, 0x001C0025#32, 0x40100803#32] 32#32 0 0 0 with p := 40 }
    (fun t => decide (t.res = 0x1C002540#32 ∧ t.p = 72)) = true := by decide
theorem test_rdBits_past_end : after .rdBits { spArgs [1#32] 1#32 0 0 0 with p := 32 }
    (fun t => decide (t.fault = some .lengthError ∧ t.faultInfo = 32#32 ∧ t.p = 32)) = true := by decide
/-- V12, V13. -/
theorem test_crc32 : crc32Of [0x12345678#32, 0x9ABCDEF0#32] = 0x14201842#32 := by decide
theorem test_crc8 : crc8Of 0xA7#8 0x00AA02C0400750A8#64 = 0xBB#8 := by decide
/-- V16. -/
theorem test_trigFrom : after .trigFrom (sp [0x30000001#32, 0xA0A2207F#32, 0x9FFFFFFF#32, 0x50204081#32, 0xA0000000#32])
    (fun t => decide (t.trig.syncBad = #v[false, false, true, false]) && t.log.syncWarn) = true := by decide
theorem test_trigLsum : after .trigLsum { spArgs [] 3 0 0 0 with trig := { Trigf.zero with data := #v[0xA0A2207F#32, 0, 0, 0] } }
    (fun t => decide (t.res = 245760#32)) = true := by decide
/-- V3. -/
def v3 : List Word :=
  [0xF00C26A5#32, 0x00022802#32] ++ (List.range 18).map (BitVec.ofNat 32) ++ [0x40000400#32]
    ++ (List.range 18).map (fun k => BitVec.ofNat 32 (18 + k)) ++ [0x6EA53512#32]
theorem test_daqFrom : after .daqFrom (sp v3) (fun t =>
    decide (t.daq.bx = 12#12 ∧ t.daq.event = 9#6 ∧ t.daq.orbit = 5#3 ∧ t.daq.adcCm0 = 138#10
      ∧ t.daq.corruption = #v[false, false, false, true, false, false] ∧ t.daq.calib = 0x40000400#32
      ∧ t.daq.ch[35] = 35#32) && !t.log.hdrWarn) = true := by decide +kernel
/-- V20. -/
def v20 : List Word :=
  [0xE0450058#32, 0x001C0025#32, 0x40100803#32, 0x11550FFC#32, 0x01EAA554#32, 0xF03803FF#32, 0x201C0891#32,
   0x188B3313#32, 0xFF000000#32]
theorem test_erxUnpack : after .erxUnpack (sp v20) (fun t =>
    decide (t.erxConsumed = 9 ∧ t.p = 288 ∧ t.erx.chmap = 0x18001C0025#37 ∧ t.erx.ch[5] = 0x3FF00400#32
      ∧ t.erx.calib = 0xEAA554F0#32 ∧ t.erx.ch[35] = 0x000FFC00#32 ∧ t.erx.ch[34] = 0x91188B33#32)
      && t.log.invalidCode) = true := by decide +kernel
/-- V21. -/
theorem test_erxUnpack_cut : after .erxUnpack (sp (v20.take 8)) (fun t =>
    decide (t.fault = some .lengthError ∧ t.faultInfo = 252#32 ∧ t.faultOp = 0x18#6) && t.log.invalidCode) = true := by
  decide +kernel
/-- V24. -/
def v24 : List Word := [0xAA02C000#32, 0x0750A82F#32] ++ v20 ++ [0xE2450040#32, 0xE39995A2#32]
theorem test_econdFrom : after .econdFrom { sp v24 with cfgNlinks := 2#4 } (fun t =>
    decide (t.econd.corruption[2] = false ∧ t.econd.corruption[3] = false ∧ t.econd.nwords = 13
      ∧ t.econd.links.map (fun l => l.event) = [2#6, 2#6] ∧ t.econd.links.map (fun l => l.nwords) = [9, 1])
      && !t.log.hdrWarn) = true := by decide +kernel
/-- V28. -/
def v28 : List Word := [0x10000002#32, 0xAA02C040#32, 0x0750A8BB#32, 0x1003000D#32] ++ v24
theorem test_msFrom : after .msFrom { sp v28 with cfgNlinks := 2#4 } (fun t =>
    decide (t.ms.iSoi = 1 ∧ t.ms.samples.map (fun x => x.length) = [2#16, 13#16])) = true := by decide +kernel
/-- V30. -/
theorem test_rocFrom_slice : after .rocFrom (sp [4, 0x00010000#32, 0, 0]) (fun t =>
    decide (t.fault = some .lengthError ∧ t.faultInfo = 0#32)) = true := by decide
theorem test_rocFrom_daq_length : after .rocFrom (sp [4, 0, 0, 0]) (fun t =>
    decide (t.fault = some .badLength ∧ t.faultInfo = 0#32 ∧ t.faultOp = 0x1B#6)) = true := by decide
/-- V31: `FMT_START`, `FMT_FINISH` with no link. -/
theorem test_fmtStart : after .fmtStart (spArgs [] 12 9 5 0) (fun t =>
    decide (Memory.words t.obuf 0 2 = [0xAA000000#32, 0x00C26800#32] ∧ t.op = 64)) = true := by decide +kernel
theorem test_fmtFinish_exact :
    after .fmtFinish { opened State.reset with params := { Params.default with fmtFidelity := .bitExact } } (fun t =>
      decide (Memory.words t.obuf 0 3 = [0xAA004000#32, 0x00C2684F#32, 0#32])) = true := by decide +kernel
/-- V32, its last two lines of faults. -/
theorem test_scanRoc_zero_length : after .scanRoc (stream [0x11888811#32, 0xBEEF2025#32, 0]) (fun t =>
    decide (t.fault = some .badLength ∧ t.faultInfo = 0#32 ∧ t.strmPos = 3)) = true := by decide
theorem test_scanMs_empty : after .scanMs (stream [0xB33F2025#32, 0, 0x12345678#32]) (fun t =>
    decide (t.res = 1#32 ∧ t.ilen = 0 ∧ t.strmPos = 2)) = true := by decide
/-- R280: an infinite stream has a word wherever it is read; here the length word and the window lie in a repetition. -/
theorem test_scanRoc_endless : after .scanRoc (endless [0xBEEF2025#32] [2, 7, 0x11888811#32, 0xBEEF2025#32]) (fun t =>
    decide (t.res = 1#32 ∧ t.strmPos = 7 ∧ Memory.words t.ibuf 0 2 = [2#32, 7#32])) = true := by decide
/-- V24: `CRC32 2..11` and the `CRC8` of its header. -/
theorem test_crc32_element : after (.crc32 2 11) (framed (v24.take 12)) (fun t =>
    decide (Memory.readWord t.frame.mem 12 = 0xE39995A2#32 ∧ t.frame.op = 416)) = true := by decide +kernel
theorem test_crc8_element : after .crc8 (framed [0xAA02C000#32, 0x0750A800#32]) (fun t =>
    decide (Memory.readWord t.frame.mem 1 = 0x0750A82F#32 ∧ t.frame.op = 64)) = true := by decide +kernel

/-! ### Witnesses: the hypotheses of each obligation can be met, at the ends of their ranges -/

theorem wit_DecodeOfEncode :
    Params.default.msLayout.wf = true ∧ (Instr.fp11 36 1023#10 1023#10 1023#10).wellFormed = true
      ∧ (Instr.trigData 3 0#4 0#7 0#7 0#7 0#7).wellFormed = true ∧ Instr.pad.wellFormed = true
      ∧ (MsLayout.mk ⟨3, 0⟩ ⟨30, 20⟩ ⟨31, 31⟩ ⟨19, 4⟩).wf = true := by decide
theorem wit_EncodeOfDecode :
    Params.default.msLayout.wf = true
      ∧ decode Params.default (.wire .rocLen 104#32) = .instr (.rocLen 104#32) ∧ Place.wholeWord .rocLen = true
      ∧ decode Params.default (.wire (.channel 36) 0x1FFFFFFF#32) = .instr (.zs0001 36 3#2 1023#10) := by decide
theorem wit_StepRunsCommand :
    (about (.writeCmd 0x21#6)).script = [.writeCmd 0x21#6]
      ∧ (faulty (about (.writeCmd 0x04#6))).script = [.writeCmd 0x04#6]
      ∧ decode State.reset.params (.cmd 0x21#6) = .instr .scanMs
      ∧ decode State.reset.params (.cmd 0x04#6) = .instr .rdBits := by decide
theorem wit_StepRunsElement :
    let s := { sp [0x12345678#32] with script := [.walk .sample] }
    fetchWire s .sample = some 0x12345678#32
      ∧ decode s.params (.wire .sample 0x12345678#32) = .instr (.sample false false 291#10 277#10 632#10) := by decide
theorem wit_FetchReadsSpanOrStream :
    Place.atCursor (.channel 36) = true ∧ Ready { sp [1, 2] with p := 63 } ∧ 63 + 0 < 32 * 2 ∧ Ready (sp [1]) ∧ 0 + 31 < 32 * 1
      ∧ MsStartAt (stream [1, 0xB33F2025#32]) 1 ∧ (∀ k, k < 1 → ¬ MsStartAt (stream [1, 0xB33F2025#32]) k)
      ∧ MsStartAt (endless [] [5, 0xB33F2025#32]) 1 := by decide
/-- A stream without words has no start marker. -/
theorem wit_no_marker (j : Nat) : ¬ RocStartAt (stream []) j ∧ ¬ MsStartAt (stream []) j := by
  simp [RocStartAt, MsStartAt, stream, Stream.word]
theorem wit_HostWritesLand :
    (about (.writeIbuf 65535 1)).script = [.writeIbuf 65535 1] ∧ 65535 < State.reset.params.ibufWords
      ∧ Memory.wf State.reset.ibuf = true
      ∧ (about (.writeIbuf 65536 1)).script = [.writeIbuf 65536 1] ∧ State.reset.params.ibufWords ≤ 65536
      ∧ (about (.writeArg0 1)).script = [.writeArg0 1] ∧ (about (.writeArg1 1)).script = [.writeArg1 1]
      ∧ (about (.writeArg2 1)).script = [.writeArg2 1] ∧ (about (.writeArg3 1)).script = [.writeArg3 1]
      ∧ (about (.writeIlen 65536)).script = [.writeIlen 65536] ∧ 65536 ≤ State.reset.params.ibufWords
      ∧ (about (.writeIlen 65537)).script = [.writeIlen 65537] ∧ State.reset.params.ibufWords < 65537
      ∧ (about (.writeNlinks 12)).script = [.writeNlinks 12] ∧ 1 ≤ (1#4).toNat ∧ (12#4).toNat ≤ 12
      ∧ (about (.writeNlinks 13)).script = [.writeNlinks 13] ∧ ((0#4).toNat = 0 ∨ 12 < (0#4).toNat) ∧ 12 < (13#4).toNat
      ∧ (about (.writeZsEn false)).script = [.writeZsEn false]
      ∧ (about .frameNew).script = [.frameNew] ∧ (about (.frameBits 24 7)).script = [.frameBits 24 7]
      ∧ (about .frameLoad).script = [.frameLoad]
      ∧ (⟨[], 2097152⟩ : BitBuf).op = 32 * State.reset.params.ibufWords
      ∧ State.reset.params.ibufWords < ((⟨[], 2097153⟩ : BitBuf).op + 31) / 32 := by decide
theorem wit_UnassignedCommandSetsBadCmd :
    Unassigned 0x03#6 ∧ Unassigned 0x0B#6 ∧ Unassigned 0x0F#6 ∧ Unassigned 0x1F#6 ∧ Unassigned 0x22#6
      ∧ Unassigned 0x3F#6 ∧ ¬ Unassigned 0x0A#6 ∧ ¬ Unassigned 0x10#6 ∧ ¬ Unassigned 0x21#6
      ∧ (about (.writeCmd 0x3F#6)).script = [.writeCmd 0x3F#6] ∧ (about (.writeCmd 0x3F#6)).fault = none
      ∧ (faulty (about (.writeCmd 0x3F#6))).fault ≠ none := by decide
theorem wit_PendingFaultBlocks :
    (faulty State.reset).fault ≠ none ∧ Instr.markMsEnd ≠ .nop ∧ Instr.markMsEnd ≠ .clrFault
      ∧ Instr.markMsEnd ≠ .clrLog ∧ isPseudo .markMsEnd = false
      ∧ (faulty (about (.writeCmd 0x03#6))).script = [.writeCmd 0x03#6] ∧ 2 < (0x03#6).toNat
      ∧ (faulty (about (.writeCmd 0x02#6))).script = [.writeCmd 0x02#6] ∧ ¬ 2 < (0x02#6).toNat := by decide
theorem wit_ErrorLeavesRestUnchanged :
    ∃ t, State.reset.fault = none ∧ exec .daqFrom State.reset = .next t ∧ t.fault ≠ none :=
  ⟨_, rfl, rfl, by decide⟩
theorem wit_RecordsAndFlagsHaveTheirWriters :
    (∃ t, exec .atEnd State.reset = .next t ∧ destOf .atEnd ≠ .daq ∧ destOf .atEnd ≠ .strm ∧ Instr.atEnd ≠ .setSpan
        ∧ movesCursor .atEnd = false ∧ t.fault = none ∧ Instr.atEnd ≠ .clrLog ∧ isPseudo .atEnd = false)
      ∧ (∃ t, exec .daqFrom (sp v3) = .next t ∧ destOf .daqFrom ≠ .resOnly ∧ destOf .daqFrom ≠ .res
        ∧ destOf .daqFrom ≠ .strm ∧ Instr.daqFrom ≠ .atEnd)
      ∧ ∃ t, exec .pad State.reset = .next t ∧ isPseudo .pad = true :=
  ⟨⟨_, rfl, by decide⟩, ⟨_, rfl, by decide⟩, ⟨_, rfl, rfl⟩⟩
theorem wit_OnlyEndlessScansStop :
    exec .scanRoc (endless [0x11888811#32] [1]) = .fault .endlessScan
      ∧ exec .scanMs (endless [] [0xBEEF2025#32, 0x11888811#32]) = .fault .endlessScan
      ∧ exec .markRocStart0 (endless [0x11888811#32] [1]) = .fault .endlessScan
      ∧ exec .markMsEnd (endless [] [0x12345678#32]) = .fault .endlessScan := ⟨rfl, rfl, rfl, rfl⟩
theorem wit_ReadAndPeekBits :
    let a := { spArgs [1, 2] 32 0 0 0 with p := 32 }
    let z := { spArgs [1, 2] 0 0 0 0 with p := 64 }
    let b := { spArgs [1, 2] 1 0 0 0 with p := 64 }
    let c := { spArgs [1, 2] 33 0 0 0 with p := 0 }
    (Ready a ∧ arg0Nat a ≤ 32 ∧ a.p + arg0Nat a = 32 * a.spanLen)
      ∧ (Ready z ∧ arg0Nat z ≤ 32 ∧ z.p + arg0Nat z = 32 * z.spanLen)
      ∧ (Ready b ∧ arg0Nat b ≤ 32 ∧ 32 * b.spanLen < b.p + arg0Nat b) ∧ (Ready c ∧ 32 < arg0Nat c) := by decide
theorem wit_SplitReadIsReadBits :
    let a := { spArgs [1, 2] 32 0 0 0 with p := 28 }
    let b := { spArgs [1, 2] 1 0 0 0 with p := 63 }
    (Ready a ∧ 1 ≤ arg0Nat a ∧ arg0Nat a ≤ 32 ∧ a.p + arg0Nat a ≤ 32 * a.spanLen)
      ∧ (Ready b ∧ 1 ≤ arg0Nat b ∧ arg0Nat b ≤ 32 ∧ b.p + arg0Nat b ≤ 32 * b.spanLen) := by decide
theorem wit_SeeksAndSetSpan :
    let a (k n : Word) := spArgs [1, 2, 3] k n 0 0
    Idle (a 3 0) ∧ arg0Nat (a 3 0) = (a 3 0).spanLen ∧ (a 4 0).spanLen < arg0Nat (a 4 0)
      ∧ arg0Nat (a 12 0) = 4 * (a 12 0).spanLen ∧ 4 * (a 13 0).spanLen < arg0Nat (a 13 0)
      ∧ arg0Nat (a 2 1) + arg1Nat (a 2 1) = (a 2 1).ilen ∧ (a 2 2).ilen < arg0Nat (a 2 2) + arg1Nat (a 2 2) := by decide
theorem wit_AlignAndAtEnd :
    Idle { sp [1] with p := 32 } ∧ ({ sp [1] with p := 32 } : State).p = 32 * (sp [1]).spanLen
      ∧ Idle { sp [1] with p := 31 } ∧ ({ sp [1] with p := 31 } : State).p ≠ 32 * (sp [1]).spanLen := by decide
theorem wit_SampleDecByMode :
    Idle State.reset ∧ (0x3FFFFFFF#32).toNat / 2 ^ 30 = 0 ∧ (0x40000000#32).toNat / 2 ^ 30 = 1
      ∧ (0x80000000#32).toNat / 2 ^ 30 = 2 ∧ (0xFFFFFFFF#32).toNat / 2 ^ 30 = 3 := by decide
theorem wit_SampleEncBuildsWord : Idle (spArgs [] 1 2 3 4) := by decide
theorem wit_SampleRoundTrip :
    let s := spArgs [] 1023#32 0x400#32 0xFFFFFFFF#32 0#32
    Idle s ∧ (s.arg0.extractLsb' 0 11).toInt = 1023 ∧ (s.arg1.extractLsb' 0 11).toInt = -1024
      ∧ (s.arg2.extractLsb' 0 11).toInt = -1 ∧ (s.arg3.extractLsb' 0 11).toInt = 0 := by decide
theorem wit_WordElementsWriteRecords :
    WordAhead (sp [1, 0, 0, 0]) ∧ WordAhead { sp [1, 0, 0, 0] with p := 96 } ∧ 3 < 4 ∧ 2 < 3
      ∧ (4#32).toNat = (sp [1, 0, 0, 0]).spanLen ∧ (5#32).toNat ≠ (sp [1, 0, 0, 0]).spanLen
      ∧ 4 ≤ (sp [1, 0, 0, 0]).spanLen := by decide
theorem wit_Crc32SpanOfWords : Ready (sp []) ∧ Ready (sp [2]) := by decide
theorem wit_Crc8OfArguments : Idle (spArgs [] 0x00AA5741#32 0x000750AC#32 0 0) := by decide
theorem wit_DaqFromBuildsRecord :
    Ready (sp v3) ∧ (sp v3).spanLen = 40 ∧ Ready (sp (v3.take 39)) ∧ (sp (v3.take 39)).spanLen ≠ 40
      ∧ (sp v3).params.daqFlagOrder = .to234
      ∧ ({ Params.default with daqFlagOrder := .to432 } : Params).daqFlagOrder = .to432 := by decide +kernel
theorem wit_SlotsAreStorage : 36 < 37 ∧ 0 < 37 ∧ 17 < 18 ∧ 18 < 19 := by decide
theorem wit_DaqElementsWriteRecord :
    WordAhead (sp v3) ∧ (sp v3).spanLen = 40 ∧ WordAhead (sp [1]) ∧ (sp [1]).spanLen ≠ 40 := by decide +kernel
theorem wit_TrigFromBuildsRecord :
    Ready (sp [1, 2, 3, 4, 5]) ∧ (sp [1, 2, 3, 4, 5]).spanLen = 5 ∧ Ready (sp [1]) ∧ (sp [1]).spanLen ≠ 5 := by decide
theorem wit_TrigSumsOfData :
    let a (i j : Word) := spArgs [] i j 0 0
    Idle (a 3 3) ∧ arg0Nat (a 3 3) < 4 ∧ arg1Nat (a 3 3) < 4 ∧ 4 ≤ arg0Nat (a 4 9) ∧ arg0Nat (a 3 4) < 4
      ∧ 4 ≤ arg1Nat (a 3 4) := by decide
theorem wit_ErxEmptyAndPassthrough :
    let e := sp [0xE2450040#32]
    let f (n : Nat) := spArgs ([0xE045005F#32, 0xFFFFFFFF#32] ++ List.replicate n 7#32) 1 0 0 0
    let one (s : State) : State := { s with params := { s.params with ptHeader := .one } }
    (Ready e ∧ 1 ≤ e.spanLen ∧ (spanWord e 0).getLsbD 25 = true)
      ∧ (Ready (f 37) ∧ (spanWord (f 37) 0).getLsbD 25 = false ∧ argPassthrough (f 37) = true ∧ 2 + 37 = (f 37).spanLen
          ∧ (f 37).params.ptHeader = .two)
      ∧ (Ready (one (f 36)) ∧ (spanWord (one (f 36)) 0).getLsbD 25 = false ∧ 1 + 37 = (one (f 36)).spanLen)
      ∧ (Ready (f 36) ∧ (spanWord (f 36) 0).getLsbD 25 = false ∧ (f 36).spanLen < 2 + 37)
      ∧ (Ready (f 0) ∧ 2 ≤ (f 0).spanLen ∧ (f 0).spanLen < 2 + 37) := by decide +kernel
theorem wit_ErxZeroSuppressedDecodes :
    let s := sp v20
    let n := sp [0xE0450040#32, 0#32]
    (Ready s ∧ 2 ≤ s.spanLen ∧ (spanWord s 0).getLsbD 25 = false ∧ argPassthrough s = false
        ∧ slotPos s 37 = 264 ∧ slotPos s 37 ≤ 32 * s.spanLen
        ∧ present s.params.chmapOrder (chmapOf s) 0 = true ∧ present s.params.chmapOrder (chmapOf s) 36 = true
        ∧ present s.params.chmapOrder (chmapOf s) 1 = false)
      ∧ (Ready n ∧ 2 ≤ n.spanLen ∧ (spanWord n 0).getLsbD 25 = false ∧ argPassthrough n = false
        ∧ slotPos n 37 = 32 * n.spanLen) := by decide +kernel
theorem wit_ErxFaultsAtTheRead :
    let c := sp (v20.take 8)
    let d := sp [0xE0450040#32, 1#32]
    (Ready (sp []) ∧ (sp []).spanLen = 0)
      ∧ (Ready (sp (v20.take 1)) ∧ (sp (v20.take 1)).spanLen = 1 ∧ (spanWord (sp (v20.take 1)) 0).getLsbD 25 = false)
      ∧ (Ready d ∧ 2 ≤ d.spanLen ∧ (spanWord d 0).getLsbD 25 = false ∧ argPassthrough d = false
          ∧ present d.params.chmapOrder (chmapOf d) 0 = true ∧ slotPos d 0 ≤ 32 * d.spanLen
          ∧ 32 * d.spanLen < slotPos d 0 + 4)
      ∧ (Ready c ∧ 2 ≤ c.spanLen ∧ (spanWord c 0).getLsbD 25 = false ∧ argPassthrough c = false
          ∧ present c.params.chmapOrder (chmapOf c) 36 = true ∧ slotPos c 36 + 4 ≤ 32 * c.spanLen
          ∧ 32 * c.spanLen < slotPos c 37) := by decide +kernel
theorem wit_RecordElementsFillSlot :
    let a (p : Nat) : State := { sp [1] with p := p }
    Ready (a 0) ∧ (a 8).p + 24 = 32 * (a 8).spanLen ∧ (a 16).p + 16 = 32 * (a 16).spanLen
      ∧ (a 0).p + 32 = 32 * (a 0).spanLen ∧ (a 28).p + 4 = 32 * (a 28).spanLen
      ∧ 32 * (a 9).spanLen < (a 9).p + 24 ∧ 32 * (a 17).spanLen < (a 17).p + 16
      ∧ 32 * (a 1).spanLen < (a 1).p + 32 ∧ (a 17).p + 4 ≤ 32 * (a 17).spanLen
      ∧ 32 * (a 29).spanLen < (a 29).p + 4 := by decide
theorem wit_ErxElementsWriteRecord : WordAhead (sp [1]) ∧ WordAhead { sp [1, 2] with p := 32 } := by decide
theorem wit_EcondTruncatedStopsAtHeader :
    let s := sp [0xAA02C040#32, 0x0750A8BB#32]
    Ready s ∧ s.spanLen = 2 ∧ (spanWord s 0).getLsbD 6 = true := by decide
theorem wit_EcondFromUnpacksLinks :
    let s := { sp v24 with cfgNlinks := 2#4 }
    let r := { sp ([0xAA02C000#32, 0x0750A82F#32] ++ List.replicate 40 0#32) with cfgNlinks := 1#4 }
    (Ready s ∧ 2 ≤ s.spanLen ∧ (spanWord s 0).getLsbD 6 = false
        ∧ after .econdFrom s (fun t => decide (t.fault = none)) = true)
      ∧ (Ready r ∧ (spanWord r 0).getLsbD 6 = false ∧ 2 + 39 * r.cfgNlinks.toNat + 1 = r.spanLen) := by decide +kernel
/-- A packet with one empty link and `rest` behind it, two links configured: no word for the second link; a second empty link
and no trailer; a second link whose record is cut. -/
def packetOf (rest : List Word) : State :=
  { sp ([0xAA02C000#32, 0x0750A82F#32, 0xE2450040#32] ++ rest) with cfgNlinks := 2#4 }
theorem wit_EcondMissingWordRaises :
    (Ready (sp [1]) ∧ (sp [1]).spanLen < 2)
      ∧ (∀ rest ∈ [[], [0xE2450040#32], [0xE0450040#32, 1#32]],
          Ready (packetOf rest) ∧ 2 ≤ (packetOf rest).spanLen ∧ (spanWord (packetOf rest) 0).getLsbD 6 = false
            ∧ ∃ u, exec .erxUnpack (atLink 2 ((spanWord (packetOf rest) 0).getLsbD 13) (packetOf rest)) = .next u
                ∧ u.fault = none ∧ 3 = 2 + u.erxConsumed)
      ∧ (∃ v, exec .erxUnpack (atLink 3 false (packetOf [])) = .next v ∧ v.fault = some .lengthError
          ∧ 1 < (packetOf []).cfgNlinks.toNat)
      ∧ (∃ v, exec .erxUnpack (atLink 3 false (packetOf [0xE0450040#32, 1#32])) = .next v
          ∧ v.fault = some .lengthError ∧ v.faultInfo = 64#32)
      ∧ (∃ u, exec .erxUnpack (atLink 3 false (packetOf [0xE2450040#32])) = .next u ∧ u.fault = none
          ∧ 4 = 3 + u.erxConsumed ∧ 2 = (packetOf [0xE2450040#32]).cfgNlinks.toNat
          ∧ 4 = (packetOf [0xE2450040#32]).spanLen) := by
  refine ⟨by decide, ?_, ⟨_, rfl, rfl, by decide⟩, ⟨_, rfl, rfl, rfl⟩, ⟨_, rfl, rfl, rfl, rfl, rfl⟩⟩
  intro rest h
  simp only [List.mem_cons, List.not_mem_nil, or_false] at h
  obtain rfl | rfl | rfl := h <;> exact ⟨by decide, by decide, by decide, _, rfl, rfl, rfl⟩
theorem wit_EcondElementsWriteRecord : WordAhead (sp [1]) ∧ WordAhead { sp [1, 2, 3] with p := 64 } := by decide
/-- One group of a truncated packet, and what follows it. -/
def oneGroup (rest : List Word) : State := sp ([0x10000002#32, 0xAA02C040#32, 0x0750A8BB#32] ++ rest)
theorem wit_MsFromReadsGroups :
    (∀ rest ∈ [[], [0#32], [0x1003000E#32]],
        ∃ u, exec .econdFrom { withSpan ((oneGroup rest).spanBase + 0 + 1) (msLength (oneGroup rest) 0) (oneGroup rest)
            with draws := (oneGroup rest).draws } = .next u
          ∧ u.fault = none ∧ Ready (oneGroup rest) ∧ 0 < (oneGroup rest).spanLen
          ∧ 3 = 0 + 1 + msLength (oneGroup rest) 0 ∧ 3 ≤ (oneGroup rest).spanLen)
      ∧ 3 = (oneGroup []).spanLen ∧ 1 ≤ (oneGroup []).params.maxSamples
      ∧ (3 < (oneGroup [0#32]).spanLen ∧ 1 = ({ Params.default with maxSamples := 1 } : Params).maxSamples)
      ∧ (3 < (oneGroup [0x1003000E#32]).spanLen ∧ 1 < (oneGroup []).params.maxSamples
          ∧ (oneGroup [0x1003000E#32]).spanLen < 3 + 1 + msLength (oneGroup [0x1003000E#32]) 3)
      ∧ (Ready (sp []) ∧ (sp []).spanLen = 0)
      ∧ (0 + 1 + msLength (sp [0x10000001#32, 7]) 0 ≤ (sp [0x10000001#32, 7]).spanLen
          ∧ ∃ v, exec .econdFrom (withSpan (0 + 0 + 1) (msLength (sp [0x10000001#32, 7]) 0) (sp [0x10000001#32, 7])) = .next v
            ∧ v.fault = some .lengthError ∧ v.faultInfo = 1#32) := by
  refine ⟨?_, by decide, by decide, by decide, by decide, by decide, by decide, _, rfl, rfl, rfl⟩
  intro rest h
  simp only [List.mem_cons, List.not_mem_nil, or_false] at h
  obtain rfl | rfl | rfl := h <;> exact ⟨_, rfl, rfl, by decide, by decide, by decide, by decide⟩
theorem wit_MsGroupsComplete :
    let s := oneGroup []
    let z := { sp (0x1000002A#32 :: List.replicate 42 0#32) with cfgNlinks := 1#4 }
    (Ready s ∧ 1 ≤ s.params.maxSamples ∧ 0 + 1 + msLength s 0 = s.spanLen ∧ PacketFits s (0 + 1) (msLength s 0))
      ∧ (Ready z ∧ 0 + 1 + msLength z 0 = z.spanLen ∧ PacketFits z (0 + 1) (msLength z 0)
          ∧ 2 + 39 * z.cfgNlinks.toNat + 1 = msLength z 0)
      ∧ (WordAhead s ∧ s.p % 32 = 0 ∧ s.ms.samples.length < s.params.maxSamples
          ∧ PacketFits s (s.p / 32 + 1) (2#16).toNat) := by decide +kernel
theorem wit_MsHdrElementAddsSample :
    let s := oneGroup []
    WordAhead s ∧ s.p % 32 = 0 ∧ s.ms.samples.length < s.params.maxSamples
      ∧ s.p / 32 + 1 + (2#16).toNat = s.spanLen
      ∧ ∃ u, exec .econdFrom (withSpan (s.spanBase + s.p / 32 + 1) (2#16).toNat s) = .next u ∧ u.fault = none :=
  ⟨by decide, by decide, by decide, by decide, _, rfl, rfl⟩
/-- A single-ROC packet of zeros with the given table. -/
def rocOf (n a b c : Word) : State := sp ([n, a, b, c] ++ List.replicate (n.toNat - 4) 0#32)
theorem wit_RocFromAssembles :
    let s := rocOf 84 0x00280028#32 0 0
    Ready s ∧ 4 ≤ s.spanLen ∧ (spanWord s 0).toNat = s.spanLen ∧ tableLen s 0 = 40 ∧ tableLen s 1 = 40
      ∧ tableOff s 6 = s.spanLen := by decide +kernel
theorem wit_RocFaultsInOrder :
    let s := rocOf 4 0x00010000#32 0 0
    let z := rocOf 4 0 0 0
    let l := rocOf 84 0x00280028#32 0 1
    let m := rocOf 84 0x00280000#32 0 1
    (Ready (sp []) ∧ (sp []).spanLen = 0)
      ∧ (Ready (sp [2]) ∧ 1 ≤ (sp [2]).spanLen ∧ (spanWord (sp [2]) 0).toNat ≠ (sp [2]).spanLen)
      ∧ (Ready (sp [3, 0, 0]) ∧ (spanWord (sp [3, 0, 0]) 0).toNat = (sp [3, 0, 0]).spanLen ∧ (sp [3, 0, 0]).spanLen < 4)
      ∧ (Ready s ∧ (spanWord s 0).toNat = s.spanLen ∧ 4 ≤ s.spanLen ∧ tableOff s 0 ≤ s.spanLen
          ∧ s.spanLen < tableOff s 1)
      ∧ (Ready z ∧ tableOff z 1 ≤ z.spanLen ∧ tableLen z 0 ≠ 40)
      ∧ (Ready l ∧ (spanWord l 0).toNat = l.spanLen ∧ tableOff l 5 ≤ l.spanLen
          ∧ (∀ j, j < 5 → j < 2 → tableLen l j = 40) ∧ l.spanLen < tableOff l 6)
      ∧ (Ready m ∧ tableLen m 0 = 40 ∧ tableOff m 2 ≤ m.spanLen ∧ tableLen m 1 ≠ 40) := by decide +kernel
theorem wit_WriteBitsReadBack :
    let f : BitBuf := ⟨[(0, 0xFC#8)], 6⟩
    let g : BitBuf := ⟨[(3, 0xFF#8), (4, 0xFF#8)], 32⟩
    (Memory.wf f.mem = true ∧ ∀ q, q < 32 * ((f.op + 31) / 32) → f.op ≤ q → bufBit f.mem q = false)
      ∧ (Memory.wf g.mem = true ∧ ∀ q, q < 32 * ((g.op + 31) / 32) → g.op ≤ q → bufBit g.mem q = false) := by decide
theorem wit_FmtStartWritesHeader :
    Idle (opened State.reset) ∧ 2 ≤ State.reset.params.obufWords ∧ Memory.wf (opened State.reset).obuf = true := by decide
theorem wit_FmtAddInverseOfErxUnpack :
    let s := opened (sp (List.replicate 40 0xC0000001#32))
    let l := { opened (spArgs (List.replicate 40 1#32) 11 0 0 0) with fmtNlinks := 11, op := 13728, olen := 429 }
    (Ready s ∧ FmtReady s ∧ arg0Nat s = s.fmtNlinks ∧ arg0Nat s ≤ 11 ∧ s.spanLen = 40
        ∧ s.op + 32 * 39 ≤ 32 * s.params.obufWords ∧ (formattedBits s + 31) / 32 = 39)
      ∧ (Ready l ∧ FmtReady l ∧ arg0Nat l = l.fmtNlinks ∧ arg0Nat l ≤ 11 ∧ l.op + 32 * 39 ≤ 32 * l.params.obufWords) := by
  decide +kernel
/-- A state that holds given words as its span reads them back: the inner premises of the two inverse statements. -/
theorem wit_words_as_span (m : Memory) (base n : Nat) :
    Ready (sp (Memory.words m base n)) ∧ (sp (Memory.words m base n)).spanLen = n
      ∧ argPassthrough (sp (Memory.words m base n)) = false
      ∧ ∀ i, i < n → spanWord (sp (Memory.words m base n)) i = Memory.readWord m (base + i) := by
  refine ⟨⟨rfl, by simp [sp, loadSpan]⟩, by simp [sp, loadSpan], by simp [argPassthrough, sp, loadSpan, State.reset, State.resetWith],
    fun i hi => ?_⟩
  simp only [spanWord, sp, loadSpan, State.reset, State.resetWith]
  have := Memory.readWord_writeWords (m := []) rfl 0 (Memory.words m base n) (k := i) (by simpa using hi)
  rw [this, ← Memory.getD_words m base n i hi]
  simp [hi]
theorem wit_FmtFinishClosesPacket :
    let s := opened State.reset
    let l := { opened State.reset with op := 15040, olen := 470 }
    Idle s ∧ FmtReady s ∧ s.op + 32 ≤ 32 * s.params.obufWords ∧ FmtReady l ∧ l.op + 32 = 32 * l.params.obufWords
      ∧ s.params.fmtFidelity = .sourcePlaceholder
      ∧ ({ Params.default with fmtFidelity := .bitExact } : Params).fmtFidelity = .bitExact := by decide
theorem wit_FmtOrderRaises :
    let full (s : State) : State := { opened s with op := 15072, olen := 471 }
    let a (k : Word) (n : Nat) := spArgs (List.replicate n 0#32) k 0 0 0
    (Ready (sp []) ∧ (sp []).fmtOpen = false)
      ∧ (Ready (opened (a 1 0)) ∧ (opened (a 1 0)).fmtOpen = true ∧ arg0Nat (a 1 0) ≠ (opened (a 1 0)).fmtNlinks)
      ∧ (11 < arg0Nat (a 12 0) ∧ ({ opened (a 12 0) with fmtNlinks := 12 } : State).fmtOpen = true)
      ∧ (Ready (opened (a 0 39)) ∧ arg0Nat (a 0 39) = (opened (a 0 39)).fmtNlinks ∧ (a 0 39).spanLen ≠ 40)
      ∧ (Ready (full (a 0 40)) ∧ 32 * (full (a 0 40)).params.obufWords < (full (a 0 40)).op + 32)
      ∧ (arg0Nat (full (a 0 40)) = (full (a 0 40)).fmtNlinks ∧ arg0Nat (full (a 0 40)) ≤ 11
          ∧ (full (a 0 40)).spanLen = 40 ∧ (full (a 0 40)).op = 32 * (full (a 0 40)).params.obufWords) := by
  decide +kernel
theorem wit_PseudoElementsWriteFrame :
    let s : State := { State.reset with frame := ⟨Memory.writeWords [] 0 [1, 2, 0xFF000000#32], 72⟩ }
    (Memory.wf s.frame.mem = true ∧ (1 < s.frame.op / 32 ∨ 1 < 0) ∧ (9 < s.frame.op / 32 ∨ 9 < 10) ∧ 2 = s.frame.op / 32)
      ∧ (0 ≤ 2 ∧ s.frame.op / 32 ≤ 2)
      ∧ (Memory.wf (framed [1]).frame.mem = true ∧ (framed [1]).frame.op / 32 < 2) := by decide
theorem wit_inv_reset : State.reset.Inv := by
  constructor <;> decide
theorem wit_FormatThenDecodeRoundTrip :
    let spans := List.replicate 12 v3
    State.reset.Inv ∧ Idle State.reset ∧ 1 ≤ spans.length ∧ spans.length = 12 ∧ (∀ ws, ws ∈ spans → ws.length = 40)
      ∧ 40 ≤ State.reset.params.ibufWords ∧ 2 + 39 * spans.length + 1 = State.reset.params.obufWords
      ∧ ({ sp [] with cfgNlinks := 12#4 } : State).cfgNlinks.toNat = spans.length := by
  refine ⟨wit_inv_reset, by decide, by decide, by decide, ?_, by decide, by decide, by decide⟩
  intro ws h
  rw [List.eq_of_mem_replicate h]; decide
/-- The words ahead, position by position. -/
theorem streamAhead_of_read {s : State} {ws : List Word}
    (h : ∀ j, j < ws.length → s.strm.word (s.strmPos + j) = ws[j]?) : StreamAhead s ws := fun j w hw => by
  obtain ⟨hj, -⟩ := List.getElem?_eq_some_iff.1 hw
  rw [h j hj, hw]
theorem wit_ScanRocFindsWindow :
    let s := stream [0xDEAD0000#32, 0x11888811#32, 1, 0x11888811#32, 0xBEEF2025#32, 2, 7, 0xD07E2025#32]
    let o := { stream [5, 0x11888811#32, 0xBEEF2025#32, 1] with strmPos := 1 }
    let e := { endless [3] [2, 7, 0x11888811#32, 0xBEEF2025#32] with strmPos := 4 }
    (Idle s ∧ Memory.wf s.ibuf = true
        ∧ StreamAhead s ([0xDEAD0000#32, 0x11888811#32, 1] ++ [0x11888811#32, 0xBEEF2025#32, 2] ++ [7])
        ∧ (∀ j, j < 3 → ¬ RocStartAt s j)
        ∧ 1 ≤ (2#32).toNat ∧ (2#32).toNat ≤ s.params.maxWindow ∧ [7#32].length + 1 = (2#32).toNat)
      ∧ (StreamAhead o ([] ++ [0x11888811#32, 0xBEEF2025#32, 1] ++ []) ∧ ([] : List Word).length + 1 = (1#32).toNat)
      ∧ (StreamAhead e ([0xBEEF2025#32, 2, 7] ++ [0x11888811#32, 0xBEEF2025#32, 2] ++ [7]) ∧ ∀ j, j < 3 → ¬ RocStartAt e j)
      ∧ (65536#32).toNat = s.params.maxWindow :=
  ⟨⟨rfl, rfl, streamAhead_of_read (by decide), by decide, by decide, by decide, by decide⟩,
    ⟨streamAhead_of_read (by decide), by decide⟩, ⟨streamAhead_of_read (by decide), by decide⟩, by decide⟩
theorem wit_ScanMsFindsWindow :
    let s := stream [1, 0xB33F2025#32, 2, 7, 0xB33F2025#32, 0x12345678#32]
    let z := stream [0xB33F2025#32, 0]
    (Idle s ∧ Memory.wf s.ibuf = true ∧ StreamAhead s ([1] ++ [0xB33F2025#32, 2] ++ [7, 0xB33F2025#32])
        ∧ (∀ j, j < 1 → ¬ MsStartAt s j) ∧ (2#32).toNat ≤ s.params.maxWindow
        ∧ [7#32, 0xB33F2025#32].length = (2#32).toNat)
      ∧ (StreamAhead z ([] ++ [0xB33F2025#32, 0] ++ []) ∧ ([] : List Word).length = (0#32).toNat) :=
  ⟨⟨rfl, rfl, streamAhead_of_read (by decide), by decide, by decide, by decide⟩, streamAhead_of_read (by decide), rfl⟩
theorem wit_ScansWithoutWindow :
    let r (rest : List Word) := stream ([3, 0x11888811#32, 0xBEEF2025#32] ++ rest)
    let m (rest : List Word) := stream ([3, 0xB33F2025#32] ++ rest)
    let e := { endless [] [3, 0x11888811#32, 0xBEEF2025#32, 0] with strmPos := 9 }
    (Idle (stream []) ∧ (stream []).strm.cycle = [] ∧ (stream []).strmPos ≤ (stream []).strm.words.length)
      ∧ (RocStartAt (r []) 1 ∧ (∀ k, k < 1 → ¬ RocStartAt (r []) k) ∧ (r []).strm.word (0 + 1 + 2) = none)
      ∧ ((r [0]).strm.word (0 + 1 + 2) = some 0 ∧ (0#32).toNat = 0)
      ∧ ((r [65537]).strm.word (0 + 1 + 2) = some 65537 ∧ (r []).params.maxWindow < (65537#32).toNat)
      ∧ ((r [2]).strm.word (0 + 1 + 2) = some 2 ∧ (2#32).toNat ≤ (r [2]).params.maxWindow
          ∧ (r [2]).strm.words.length < 0 + 1 + 2 + (2#32).toNat)
      ∧ (RocStartAt e 0 ∧ e.strm.word (9 + 0 + 2) = some 0)
      ∧ (MsStartAt (m []) 1 ∧ (∀ k, k < 1 → ¬ MsStartAt (m []) k) ∧ (m []).strm.word (0 + 1 + 1) = none)
      ∧ (m [65537]).strm.word (0 + 1 + 1) = some 65537
      ∧ ((m [1]).strm.word (0 + 1 + 1) = some 1 ∧ (1#32).toNat ≤ (m [1]).params.maxWindow
          ∧ (m [1]).strm.words.length < 0 + 1 + 2 + (1#32).toNat) := by decide
/-- Each marker standing next, with a window the scan opens behind it; the length prefix behind its start marker. -/
theorem wit_StreamElementsRunTheScan :
    (∀ x ∈ rocMarkers, x.1 ≠ .markRocStart0 →
        let s := stream [x.2, 0x11888811#32, 0xBEEF2025#32, 1]
        s.strm.word s.strmPos = some x.2 ∧ Idle s ∧ Memory.wf s.ibuf = true
          ∧ StreamAhead s ([x.2] ++ [0x11888811#32, 0xBEEF2025#32, 1] ++ []) ∧ (∀ j, j < 1 → ¬ RocStartAt s j)
          ∧ ([] : List Word).length + 1 = (1#32).toNat)
      ∧ (let s := stream [0x11888811#32, 0xBEEF2025#32, 1]
        s.strm.word s.strmPos = some 0x11888811#32
          ∧ StreamAhead s ([] ++ [0x11888811#32, 0xBEEF2025#32, 1] ++ []))
      ∧ (let s := stream [0x12345678#32, 0xB33F2025#32, 1, 7]
        s.strm.word s.strmPos = some 0x12345678#32 ∧ (∀ j, j < 1 → ¬ MsStartAt s j)
          ∧ StreamAhead s ([0x12345678#32] ++ [0xB33F2025#32, 1] ++ [7])
          ∧ MsStartAt s 1 ∧ s.strm.word (s.strmPos + 1 + 1) = some 1 ∧ s.strm.word (s.strmPos + 1 + 2 + 0) = some 7)
      ∧ (let s := stream [0xB33F2025#32, 0]
        s.strm.word s.strmPos = some 0xB33F2025#32 ∧ StreamAhead s ([] ++ [0xB33F2025#32, 0] ++ []))
      ∧ (about (.walk (.scan .roc))).script = [.walk (.scan .roc)] ∧ (about (.walk .msPrefix)).script = [.walk .msPrefix] := by
  refine ⟨?_, ⟨by decide, streamAhead_of_read (by decide)⟩,
    ⟨by decide, by decide, streamAhead_of_read (by decide), by decide, by decide, by decide⟩,
    ⟨by decide, streamAhead_of_read (by decide)⟩, rfl, rfl⟩
  intro x hx hne
  simp only [rocMarkers, List.mem_cons, List.not_mem_nil, or_false] at hx
  obtain rfl | rfl | rfl | rfl := hx
  · exact absurd rfl hne
  all_goals exact ⟨by decide, rfl, rfl, streamAhead_of_read (by decide), by decide, by decide⟩
theorem wit_ResetRestoresTable :
    (about .reset).script = [.reset] ∧ (faulty (about .reset)).script = [.reset]
      ∧ State.reset.params.wf = true := by decide
theorem wit_StepKeepsInv : ∃ t, State.reset.Inv ∧ step State.reset = .next t := ⟨_, wit_inv_reset, rfl⟩
theorem wit_StepKeepsInv_busy :
    ∃ t, (about (.writeCmd 0x20#6)).Inv ∧ step (about (.writeCmd 0x20#6)) = .next t ∧ t.strmEof = true :=
  ⟨_, by constructor <;> decide, rfl, rfl⟩
theorem wit_StepKeepsEnvironment :
    ∃ t, step (about (.walk .sample)) = .next t ∧ (about (.walk .sample)).script.head? ≠ some .reset :=
  ⟨_, rfl, by decide⟩

end Sys2Proof.Tests
end

/-! PROOFS of the family 00_scope: every step leaves the parameters and the stream alone (R4, R280, R333), takes one
host action, and gives no stream word back (R46, R291). -/

namespace Sys2Proof.Machine

/-! ### The environment: the parameters, the stream, the host's list, and the stream port -/

/-- The fields that say what surrounds the block and how far the stream has been consumed. -/
def State.env (s : State) : Params × Stream × List HostAction × Nat × Bool :=
  (s.params, s.strm, s.script, s.strmPos, s.strmEof)

/-- From `s` to `t` the parameters, the stream and the host's list stay, and the stream port only moves forward. -/
structure EnvKept (s t : State) : Prop where
  params : t.params = s.params
  strm : t.strm = s.strm
  script : t.script = s.script
  strmPos : s.strmPos ≤ t.strmPos
  strmEof : s.strmEof = true → t.strmEof = true

theorem EnvKept.of_env_eq {s t : State} (h : t.env = s.env) : EnvKept s t := by
  simp only [State.env, Prod.mk.injEq] at h
  obtain ⟨hparams, hstrm, hscript, hpos, heof⟩ := h
  exact ⟨hparams, hstrm, hscript, hpos.ge, heof.trans⟩

theorem EnvKept.refl (s : State) : EnvKept s s := .of_env_eq rfl

theorem EnvKept.trans {s t u : State} (h : EnvKept s t) (h' : EnvKept t u) : EnvKept s u :=
  ⟨h'.params.trans h.params, h'.strm.trans h.strm, h'.script.trans h.script, h.strmPos.trans h'.strmPos,
    h'.strmEof ∘ h.strmEof⟩

/-- A structural error changes nothing of the environment, the stream port included (R303). -/
theorem abort_env (dst : Dest) (op : BitVec 6) (e : Raise) (s : State) : (abort dst op e s).env = s.env := by
  simp only [State.env, abort_params, abort_strm, abort_script, abort_strmPos, abort_strmEof]

theorem appendFrame_env (n v : Nat) (s : State) : (appendFrame n v s).env = s.env := rfl

theorem EnvKept.abort {s t : State} (h : EnvKept s t) (dst : Dest) (op : BitVec 6) (e : Raise) :
    EnvKept s (abort dst op e t) :=
  h.trans (.of_env_eq (abort_env dst op e t))

theorem EnvKept.consumeWords (n : Nat) (s : State) : EnvKept s (consumeWords n s) :=
  ⟨rfl, rfl, rfl, Nat.le_add_right _ _, id⟩

theorem EnvKept.meetStreamEnd (s : State) : EnvKept s (meetStreamEnd s) :=
  ⟨rfl, rfl, rfl, Nat.le_add_right _ _, fun _ => rfl⟩

/-! ### The shared operations -/

/-- If the result is a next state, the environment is kept from `s` to it. -/
def KeepsEnv (s : State) (r : Result) : Prop :=
  ∀ t, r = .next t → EnvKept s t

theorem KeepsEnv.of_kept {s t : State} (h : EnvKept s t) : KeepsEnv s (.next t) := by
  rintro _ ⟨⟩
  exact h

theorem KeepsEnv.of_env_eq {s t : State} (h : t.env = s.env) : KeepsEnv s (.next t) :=
  .of_kept (.of_env_eq h)

theorem KeepsEnv.abort (dst : Dest) (op : BitVec 6) (e : Raise) (s : State) : KeepsEnv s (.next (abort dst op e s)) :=
  .of_env_eq (abort_env dst op e s)

theorem KeepsEnv.fault (s : State) (r : Fault) : KeepsEnv s (.fault r) :=
  fun _ h => nomatch h

theorem KeepsEnv.refused (s : State) (r : Refusal) : KeepsEnv s (.refused r) :=
  fun _ h => nomatch h

theorem KeepsEnv.ite {s : State} {c : Prop} [Decidable c] {r r' : Result} (h : KeepsEnv s r) (h' : KeepsEnv s r') :
    KeepsEnv s (if c then r else r') := by
  split
  · exact h
  · exact h'

theorem KeepsEnv.trans {s s' : State} {r : Result} (hs : EnvKept s s') (h : KeepsEnv s' r) : KeepsEnv s r :=
  fun t ht => hs.trans (h t ht)

theorem KeepsEnv.whenIdle {s : State} {k : Result} (hk : KeepsEnv s k) : KeepsEnv s (whenIdle s k) := by
  intro t h
  obtain ⟨-, rfl⟩ | ⟨-, h⟩ := whenIdle_next h
  · exact .refl _
  · exact hk t h

theorem KeepsEnv.onSpan {s : State} {dst : Dest} {op : BitVec 6} {k : List Word → Result}
    (hk : ∀ ws, KeepsEnv s (k ws)) : KeepsEnv s (onSpan dst op s k) := by
  intro t h
  obtain ⟨-, rfl⟩ | ⟨-, -, rfl⟩ | ⟨-, h⟩ := onSpan_next h
  · exact .refl _
  · exact (EnvKept.refl s).abort _ _ _
  · exact hk _ t h

theorem KeepsEnv.onElement {s : State} {dst : Dest} {op : BitVec 6} {look code n : Nat}
    {k : List Word → State → Result} (hk : ∀ ws, KeepsEnv s (k ws { s with p := s.p + n })) :
    KeepsEnv s (onElement dst op look code n s k) := by
  intro t h
  obtain ⟨-, rfl⟩ | ⟨-, _, rfl⟩ | ⟨-, -, h⟩ := onElement_next h
  · exact .refl _
  · exact (EnvKept.refl s).abort _ _ _
  · exact hk _ t h

theorem KeepsEnv.onWord {s : State} {dst : Dest} {op : BitVec 6} {k : List Word → State → Result}
    (hk : ∀ ws, KeepsEnv s (k ws { s with p := s.p + 32 })) : KeepsEnv s (onWord dst op s k) :=
  .onElement hk

theorem KeepsEnv.finish {α : Type} {s : State} {dst : Dest} {op : BitVec 6} {r : Run α} {put : α → State → State}
    (hput : ∀ a u, (put a u).env = u.env) : KeepsEnv s (finish dst op s r put) := by
  intro t h
  obtain ⟨a, c, -, rfl⟩ | ⟨e, c, -, rfl⟩ := finish_next h
  · exact .of_env_eq (hput a (s.withAcc c))
  · exact .of_env_eq (abort_env dst op e (s.withAcc c))

theorem KeepsEnv.finishFmt {s : State} {op : BitVec 6} {r : Except Raise BitBuf} {put : State → State}
    (hput : ∀ u, (put u).env = u.env) : KeepsEnv s (finishFmt op s r put) := by
  intro t h
  obtain ⟨f, -, rfl⟩ | ⟨e, -, rfl⟩ := finishFmt_next h
  · exact .of_env_eq (hput (s.withFmt f))
  · exact (EnvKept.refl s).abort _ _ _

theorem KeepsEnv.readArgBits {op : BitVec 6} {s : State} {put : Word → State} (hput : ∀ v, (put v).env = s.env) :
    KeepsEnv s (readArgBits op s put) := by
  refine .onSpan fun ws => ?_
  exact .ite (.abort _ _ _ s) (.ite (.abort _ _ _ s) (.of_env_eq (hput _)))

theorem KeepsEnv.sumOp (op : BitVec 6) (s : State) (f : BitVec 7 → Word) : KeepsEnv s (sumOp op s f) :=
  .whenIdle (.ite (.abort _ _ _ s) (.ite (.abort _ _ _ s) (.of_env_eq rfl)))

theorem KeepsEnv.recordAt (k : RecClass) (slot : Nat) (c : BitVec 4) (w : Word) (s : State) :
    KeepsEnv s (recordAt k slot c w s) := by
  refine .onElement fun ws => ?_
  exact .of_env_eq rfl

/-! ### The stream operations, the only ones that move the stream port -/

theorem KeepsEnv.takeWindow (op : BitVec 6) (head : List Word) (n : Nat) (s : State) :
    KeepsEnv s (takeWindow op head n s) := by
  intro t h
  obtain ⟨-, -, rfl⟩ | ⟨-, rfl⟩ := takeWindow_next h
  · exact (EnvKept.meetStreamEnd s).abort _ _ _
  · exact (EnvKept.consumeWords n s).trans (.of_env_eq rfl)

theorem KeepsEnv.rocWindow (s : State) : KeepsEnv s (rocWindow s) := by
  intro t h
  obtain ⟨-, rfl⟩ | ⟨n, -, ⟨-, rfl⟩ | ⟨-, -, h⟩⟩ := rocWindow_next h
  · exact (EnvKept.meetStreamEnd s).abort _ _ _
  · exact (EnvKept.consumeWords 1 s).abort _ _ _
  · exact (EnvKept.consumeWords 1 s).trans (KeepsEnv.takeWindow _ _ _ _ t h)

theorem KeepsEnv.msWindow (n : Word) (s : State) : KeepsEnv s (msWindow n s) := by
  intro t h
  obtain ⟨-, rfl⟩ | ⟨-, h⟩ := msWindow_next h
  · exact (EnvKept.refl s).abort _ _ _
  · exact KeepsEnv.takeWindow _ _ _ _ t h

theorem KeepsEnv.msPrefixAndWindow (s : State) : KeepsEnv s (msPrefixAndWindow s) := by
  unfold Machine.msPrefixAndWindow
  split
  · exact .of_kept ((EnvKept.meetStreamEnd s).abort _ _ _)
  · exact .trans (.consumeWords 1 s) (.msWindow _ _)

theorem KeepsEnv.scanFoundNothing (s : State) : KeepsEnv s (scanFoundNothing s) := by
  intro t h
  obtain ⟨-, rfl⟩ := scanFoundNothing_next h
  exact (EnvKept.meetStreamEnd s).trans (.of_env_eq rfl)

theorem KeepsEnv.afterRocSearch (found : Option Nat) (s : State) : KeepsEnv s (afterRocSearch found s) := by
  cases found with
  | none => exact .scanFoundNothing s
  | some used => exact .trans (.consumeWords used s) (.rocWindow _)

theorem KeepsEnv.afterMsSearch (found : Option Nat) (s : State) : KeepsEnv s (afterMsSearch found s) := by
  cases found with
  | none => exact .scanFoundNothing s
  | some used => exact .trans (.consumeWords used s) (.msPrefixAndWindow _)

theorem KeepsEnv.scanRocMeets (w : Word) (s : State) : KeepsEnv s (scanRocMeets w s) :=
  .whenIdle (.afterRocSearch _ s)

theorem KeepsEnv.scanMsDrops (s : State) : KeepsEnv s (scanMsDrops s) :=
  .whenIdle (.afterMsSearch _ s)

theorem KeepsEnv.execScanRoc (s : State) : KeepsEnv s (execScanRoc s) :=
  .whenIdle (.afterRocSearch _ s)

theorem KeepsEnv.execScanMs (s : State) : KeepsEnv s (execScanMs s) :=
  .whenIdle (.afterMsSearch _ s)

theorem KeepsEnv.execMsPrefix (n : Word) (s : State) : KeepsEnv s (execMsPrefix n s) := by
  refine .whenIdle ?_
  split
  · exact .scanFoundNothing s
  · exact .trans (.consumeWords _ s) (.msWindow n _)

/-! ### Every instruction -/

/-- No instruction changes the environment but for the stream port, which only moves forward. The arms are grouped by
the shared operation each is built on. -/
theorem exec_keepsEnv (i : Instr) (s : State) : KeepsEnv s (exec i s) := by
  unfold exec
  cases i with
  | sample | daqHdr | daqCm | trigSoft | trigData | econdHdr0 | econdHdr1 | econdTrl | erxHdr0 | erxHdr1 | ptSample =>
    refine .onWord fun _ => ?_
    exact .of_env_eq rfl
  | zs0000 | zs0001 | zs0010 | zs0011 | fp01 | fp10 | fp11 => exact .recordAt _ _ _ _ s
  | daqCrc | rocLen | rocLtab =>
    refine .onWord fun _ => ?_
    exact .ite (.abort _ _ _ s) (.of_env_eq rfl)
  | msHdr =>
    refine .onWord fun _ => .ite (.abort _ _ _ s) (.trans (s' := { s with p := s.p + 32 }) (.of_env_eq rfl) ?_)
    exact .finish fun _ _ => rfl
  | markRocStart0 | markRocStart1 | markRocEnd0 | markRocEnd1 => exact .scanRocMeets _ s
  | markMsStart => exact .whenIdle (.afterMsSearch _ s)
  | markMsEnd => exact .scanMsDrops s
  | msPrefix n => exact .execMsPrefix n s
  | scanRoc => exact .execScanRoc s
  | scanMs => exact .execScanMs s
  | crc32 => exact .ite (.of_env_eq (appendFrame_env _ _ s)) (.of_env_eq (appendFrame_env _ _ (drawFrameWord s).2))
  | crc8 => exact .ite (.of_env_eq rfl) (.of_env_eq rfl)
  | pad | raw => exact .of_env_eq (appendFrame_env _ _ s)
  | nop | clrFault | clrLog => exact .of_env_eq rfl
  | alignWord | atEnd | sampleDec | sampleEnc | crc8U64 => exact .whenIdle (.of_env_eq rfl)
  | seekWord | seekByte | setSpan => exact .whenIdle (.ite (.abort _ _ _ s) (.of_env_eq rfl))
  | trigCsum | trigLsum => exact .sumOp _ s _
  | rdBits | peekBits =>
    refine .readArgBits ?_
    exact fun _ => rfl
  | crc32Span =>
    refine .onSpan fun _ => ?_
    exact .of_env_eq rfl
  | daqFrom | trigFrom | erxUnpack | econdFrom | msFrom | rocFrom =>
    refine .onSpan fun _ => ?_
    exact .finish fun _ _ => rfl
  | fmtStart => exact .whenIdle (.finishFmt fun _ => rfl)
  | fmtAdd =>
    refine .onSpan fun _ => ?_
    exact .ite (.abort _ _ _ s) (.ite (.abort _ _ _ s) (.ite (.abort _ _ _ s) (.finishFmt fun _ => rfl)))
  | fmtFinish => exact .whenIdle (.ite (.abort _ _ _ s) (.finishFmt fun _ => rfl))

/-! ### Every host action but reset -/

theorem rejected_keepsEnv (d : Decoded) (s : State) : KeepsEnv s (rejected d s) := by
  cases d with
  | instr i => exact .of_env_eq rfl
  | unassignedCommand c => exact .whenIdle (.of_env_eq rfl)
  | notAMarker kind w =>
    cases kind with
    | roc => exact .scanRocMeets w s
    | ms => exact .scanMsDrops s
  | noSuchPlace pl => exact .refused s _

theorem runCoded_keepsEnv (c : Coded) (s : State) : KeepsEnv s (runCoded c s) := by
  unfold runCoded
  split
  · exact exec_keepsEnv _ s
  · exact rejected_keepsEnv _ s

theorem walkAtEnd_keepsEnv (pl : Place) (s : State) : KeepsEnv s (walkAtEnd pl s) := by
  unfold walkAtEnd
  split
  · exact .execScanRoc s
  · exact .execScanMs s
  · exact .execScanMs s
  · exact .of_env_eq rfl

theorem acceptCommand_env (c : BitVec 6) (s : State) : (acceptCommand c s).env = s.env := by
  unfold acceptCommand
  split <;> rfl

/-- What the machine does with an issued action. -/
def Issue.result : Issue → Result
  | .wrote r => r
  | .run c s => runCoded c s

theorem issue_walk_keepsEnv (pl : Place) (s : State) : KeepsEnv s (issue (.walk pl) s).result := by
  simp only [issue]
  split
  · exact runCoded_keepsEnv _ s
  · exact walkAtEnd_keepsEnv pl s

theorem issue_keepsEnv {a : HostAction} (ha : a ≠ .reset) (s : State) : KeepsEnv s (issue a s).result := by
  cases a with
  | writeIbuf => exact .ite (.of_env_eq rfl) (.fault s _)
  | writeIlen | frameLoad => exact .ite (.of_env_eq rfl) (.refused s _)
  | writeArg0 | writeArg1 | writeArg2 | writeArg3 | writeZsEn | frameNew | frameBits => exact .of_env_eq rfl
  | writeNlinks =>
    refine .of_env_eq ?_
    split <;> rfl
  | writeCmd c => exact .trans (.of_env_eq (acceptCommand_env c s)) (runCoded_keepsEnv _ _)
  | walk pl => exact issue_walk_keepsEnv pl s
  | reset => exact absurd rfl ha

/-! ### The step -/

theorem step_of_script_nil {s : State} (h : s.script = []) : step s = .next s := by
  unfold step
  rw [h]

theorem step_of_script_cons {s : State} {a : HostAction} {rest : List HostAction} (h : s.script = a :: rest) :
    step s = (issue a { s with script := rest }).result := by
  unfold step
  rw [h]
  dsimp only
  cases issue a { s with script := rest } <;> rfl

/-- Settles O60: an idle block keeps all state; the reset input keeps what surrounds the block (R330); every other
action keeps it and only moves the stream port forward. -/
theorem stepKeepsEnvironment : Obligations.StepKeepsEnvironment := by
  intro s t h
  cases hs : s.script with
  | nil =>
    rw [step_of_script_nil hs] at h
    cases h
    exact ⟨rfl, rfl, hs, fun _ => ⟨le_rfl, id⟩⟩
  | cons a rest =>
    rw [step_of_script_cons hs] at h
    by_cases ha : a = .reset
    · subst ha
      cases h
      exact ⟨rfl, rfl, rfl, fun hne => absurd rfl hne⟩
    · have hk : EnvKept { s with script := rest } t := issue_keepsEnv ha _ t h
      exact ⟨hk.params, hk.strm, hk.script, fun _ => ⟨hk.strmPos, hk.strmEof⟩⟩

end Sys2Proof.Machine

/-! PROOFS of the family 10_state, first part: what the shared operations and the scans can do, said once; every claim
about every instruction below goes through these. -/

namespace Sys2Proof.Machine

/-! ### Every next state of a result -/

/-- Every next state a result answers with meets `P`. -/
def Ensures (P : State → Prop) (r : Result) : Prop :=
  ∀ t, r = .next t → P t

/-- `P` holds where an operation with this destination and number does not complete: nothing runs while a fault is
pending (R304), or the operation takes a structural error at its own state (R303). -/
structure Unfinished (P : State → Prop) (dst : Dest) (op : BitVec 6) (s : State) : Prop where
  blocked : s.fault ≠ none → P s
  raised : Idle s → ∀ e, P (abort dst op e s)

section
variable {P Q : State → Prop} {dst : Dest} {op : BitVec 6} {s : State}

theorem Ensures.next {t : State} (h : P t) : Ensures P (.next t) := by
  rintro _ ⟨⟩
  exact h

theorem Ensures.fault (r : Fault) : Ensures P (.fault r) :=
  fun _ h => nomatch h

theorem Ensures.refused (r : Refusal) : Ensures P (.refused r) :=
  fun _ h => nomatch h

theorem Ensures.ite {c : Prop} [Decidable c] {r r' : Result} (h : c → Ensures P r) (h' : ¬ c → Ensures P r') :
    Ensures P (if c then r else r') := by
  split
  · exact h ‹_›
  · exact h' ‹_›

theorem Ensures.mono {r : Result} (h : Ensures Q r) (hPQ : ∀ t, Q t → P t) : Ensures P r :=
  fun t ht => hPQ t (h t ht)

theorem Ensures.whenIdle {k : Result} (hb : s.fault ≠ none → P s) (hk : Idle s → Ensures P k) :
    Ensures P (whenIdle s k) := by
  intro t h
  obtain ⟨hf, rfl⟩ | ⟨hi, h⟩ := whenIdle_next h
  · exact hb hf
  · exact hk hi t h

theorem Ensures.onSpan {k : List Word → Result} (hu : Unfinished P dst op s)
    (hk : Ready s → Ensures P (k (spanWords s))) : Ensures P (onSpan dst op s k) := by
  intro t h
  obtain ⟨hf, rfl⟩ | ⟨hi, -, rfl⟩ | ⟨hr, h⟩ := onSpan_next h
  · exact hu.blocked hf
  · exact hu.raised hi _
  · exact hk hr t h

theorem Ensures.onElement {look code n : Nat} {k : List Word → State → Result} (hu : Unfinished P dst op s)
    (hk : Ready s → s.p + n ≤ 32 * s.spanLen → Ensures P (k (spanWords s) { s with p := s.p + n })) :
    Ensures P (onElement dst op look code n s k) := by
  intro t h
  obtain ⟨hf, rfl⟩ | ⟨hi, _, rfl⟩ | ⟨hr, hn, h⟩ := onElement_next h
  · exact hu.blocked hf
  · exact hu.raised hi _
  · exact hk hr hn t h

theorem Ensures.onWord {k : List Word → State → Result} (hu : Unfinished P dst op s)
    (hk : Ready s → s.p + 32 ≤ 32 * s.spanLen → Ensures P (k (spanWords s) { s with p := s.p + 32 })) :
    Ensures P (onWord dst op s k) :=
  .onElement hu hk

theorem Ensures.finish {α : Type} {r : Run α} {put : α → State → State}
    (done : ∀ a c, r = .done a c → P (put a (s.withAcc c)))
    (stop : ∀ e c, r = .stop e c → P (abort dst op e (s.withAcc c))) : Ensures P (finish dst op s r put) := by
  intro t h
  obtain ⟨a, c, hr, rfl⟩ | ⟨e, c, hr, rfl⟩ := finish_next h
  · exact done a c hr
  · exact stop e c hr

theorem Ensures.finishFmt {r : Except Raise BitBuf} {put : State → State} (ok : ∀ f, r = .ok f → P (put (s.withFmt f)))
    (error : ∀ e, P (abort .fmt op e s)) : Ensures P (finishFmt op s r put) := by
  intro t h
  obtain ⟨f, hr, rfl⟩ | ⟨e, -, rfl⟩ := finishFmt_next h
  · exact ok f hr
  · exact error e

theorem Ensures.readArgBits {put : Word → State} (hu : Unfinished P .resOnly op s)
    (hput : Ready s → s.p + arg0Nat s ≤ 32 * s.spanLen → ∀ v, P (put v)) : Ensures P (readArgBits op s put) :=
  .onSpan hu fun hr => .ite (fun _ => .next (hu.raised hr.1 _)) fun _ =>
    .ite (fun _ => .next (hu.raised hr.1 _)) fun hn => .next (hput hr (Nat.le_of_not_lt hn) _)

theorem Ensures.recordAt {k : RecClass} {slot : Nat} {c : BitVec 4} {w : Word} (hu : Unfinished P .erx 0x18#6 s)
    (hk : s.p + k.recordBits ≤ 32 * s.spanLen →
      P { s with
        p := s.p + k.recordBits, erx := storeSlot (storeCode s.erx slot c) slot w,
        log := s.log.setInvalidCode (recordInvalid k) }) : Ensures P (recordAt k slot c w s) :=
  .onElement hu fun _ hp => .next (hk hp)

theorem Ensures.sumOp {f : BitVec 7 → Word} (hu : Unfinished P .res op s)
    (hput : Idle s → ∀ v, P { s with res := v }) : Ensures P (sumOp op s f) :=
  .whenIdle hu.blocked fun hi => .ite (fun _ => .next (hu.raised hi _)) fun _ =>
    .ite (fun _ => .next (hu.raised hi _)) fun _ => .next (hput hi _)

end

/-! ### The stream port -/

/-- The position of a finite stream lies within it (R29). -/
def State.InStream (s : State) : Prop := s.strm.cycle = [] → s.strmPos ≤ s.strm.words.length

theorem meetStreamEnd_inStream (s : State) (h : s.InStream) : (meetStreamEnd s).InStream := by
  intro hc
  have := h hc
  simp only [meetStreamEnd_strmPos, meetStreamEnd_strm]
  omega

theorem consumeWords_inStream {n : Nat} {s : State}
    (h : s.strm.cycle = [] → s.strmPos + n ≤ s.strm.words.length) : (consumeWords n s).InStream := h

/-- A word ahead can be consumed. -/
theorem inStream_of_strmNext {s : State} (h : strmNext s ≠ none) : (consumeWords 1 s).InStream := by
  refine consumeWords_inStream fun hc => ?_
  have : ¬ s.strm.words.length ≤ s.strmPos := fun hl => h (strmNext_eq_none.2 ⟨hc, hl⟩)
  omega

/-- The two states differ in the stream port at most, and it stays within the stream. -/
structure PortMoved (s u : State) : Prop where
  same : u = { s with strmPos := u.strmPos, strmEof := u.strmEof }
  bound : s.InStream → u.InStream

theorem PortMoved.refl (s : State) : PortMoved s s := ⟨rfl, id⟩

theorem PortMoved.meetStreamEnd (s : State) : PortMoved s (meetStreamEnd s) := ⟨rfl, meetStreamEnd_inStream s⟩

theorem PortMoved.consumeWords {n : Nat} {s : State} (h : s.InStream → (consumeWords n s).InStream) :
    PortMoved s (consumeWords n s) := ⟨rfl, h⟩

theorem PortMoved.consumeNext {s : State} (h : strmNext s ≠ none) : PortMoved s (Machine.consumeWords 1 s) :=
  .consumeWords fun _ => inStream_of_strmNext h

/-! ### What a scan can do once its search is over -/

/-- What the rest of a scan, from `s` on, answers with (R281, R286): the stream has ended and `RES` is 0, a structural
error of the stream operation `op` is taken, or a window is open. -/
inductive ScanOutcome (op : BitVec 6) (s t : State) : Prop
  | ended (u : State) (port : PortMoved s u) (eq : t = { u with res := 0#32 })
  | raised (u : State) (port : PortMoved s u) (e : Raise) (eq : t = failScan op e u)
  | opened (u : State) (port : PortMoved s u) (ws : List Word) (fits : ws.length ≤ s.params.maxWindow)
      (eq : t = openWindow ws u)

/-- A part of a scan that runs after `n` more words were consumed is a part of the scan. -/
theorem ScanOutcome.after_consume {op : BitVec 6} {n : Nat} {s t : State} (hp : PortMoved s (consumeWords n s))
    (h : ScanOutcome op (consumeWords n s) t) : ScanOutcome op s t := by
  cases h with
  | ended u port eq => exact .ended u ⟨port.same, port.bound ∘ hp.bound⟩ eq
  | raised u port e eq => exact .raised u ⟨port.same, port.bound ∘ hp.bound⟩ e eq
  | opened u port ws fits eq => exact .opened u ⟨port.same, port.bound ∘ hp.bound⟩ ws fits eq

theorem scanFoundNothing_outcome (op : BitVec 6) (s : State) : Ensures (ScanOutcome op s) (scanFoundNothing s) := by
  intro t h
  obtain ⟨-, rfl⟩ := scanFoundNothing_next h
  exact .ended _ (.meetStreamEnd s) rfl

theorem takeWindow_outcome {op : BitVec 6} {head : List Word} {n : Nat} {s : State}
    (hfit : head.length + n ≤ s.params.maxWindow) : Ensures (ScanOutcome op s) (takeWindow op head n s) := by
  intro t h
  obtain ⟨-, -, rfl⟩ | ⟨hn, rfl⟩ := takeWindow_next h
  · exact .raised _ (.meetStreamEnd s) _ rfl
  · refine .opened _ (.consumeWords fun hs => consumeWords_inStream fun hc => ?_) _ ?_ rfl
    · have := hs hc
      have := hn hc
      omega
    · rw [List.length_append, Stream.length_read]
      split <;> omega

theorem rocWindow_outcome (s : State) : Ensures (ScanOutcome 0x20#6 s) (rocWindow s) := by
  intro t h
  obtain ⟨-, rfl⟩ | ⟨n, hw, ⟨-, rfl⟩ | ⟨hpos, hmax, h⟩⟩ := rocWindow_next h
  · exact .raised _ (.meetStreamEnd s) _ rfl
  · exact .raised _ (.consumeNext (by simp [hw])) _ rfl
  · refine .after_consume (.consumeNext (by simp [hw])) (takeWindow_outcome ?_ t h)
    show 1 + (n.toNat - 1) ≤ s.params.maxWindow
    omega

theorem msWindow_outcome (n : Word) (s : State) : Ensures (ScanOutcome 0x21#6 s) (msWindow n s) := by
  intro t h
  obtain ⟨-, rfl⟩ | ⟨hmax, h⟩ := msWindow_next h
  · exact .raised _ (.refl s) _ rfl
  · exact takeWindow_outcome (by simpa using hmax) t h

theorem msPrefixAndWindow_outcome (s : State) : Ensures (ScanOutcome 0x21#6 s) (msPrefixAndWindow s) := by
  unfold msPrefixAndWindow
  split
  · exact .next (.raised _ (.meetStreamEnd s) _ rfl)
  · rename_i n hw
    exact (msWindow_outcome n _).mono fun t => .after_consume (.consumeNext (by simp [hw]))

theorem afterRocSearch_outcome (found : Option Nat) (s : State) :
    Ensures (ScanOutcome 0x20#6 (consumeWords (found.getD 0) s)) (afterRocSearch found s) := by
  cases found with
  | none => exact scanFoundNothing_outcome _ s
  | some used => exact rocWindow_outcome _

theorem afterMsSearch_outcome (found : Option Nat) (s : State) :
    Ensures (ScanOutcome 0x21#6 (consumeWords (found.getD 0) s)) (afterMsSearch found s) := by
  cases found with
  | none => exact scanFoundNothing_outcome _ s
  | some used => exact msPrefixAndWindow_outcome _

/-! ### The scans and the words they meet -/

/-- How many words the search of a stream instruction consumes, with the length word that a walked `msPrefix` stands for;
none where it finds no start marker. -/
def searchUsed (i : Instr) (s : State) : Nat :=
  match i with
  | .scanRoc => (findRocStart none 0 (searchWords s)).getD 0
  | .markRocStart0 => (findRocStart (some markRocStart0Word) 1 (searchWords s).tail).getD 0
  | .markRocStart1 => (findRocStart (some markRocStart1Word) 1 (searchWords s).tail).getD 0
  | .markRocEnd0 => (findRocStart (some markRocEnd0Word) 1 (searchWords s).tail).getD 0
  | .markRocEnd1 => (findRocStart (some markRocEnd1Word) 1 (searchWords s).tail).getD 0
  | .scanMs => (findMsStart 0 (searchWords s)).getD 0
  | .markMsStart => 1
  | .markMsEnd => (findMsStart 1 (searchWords s).tail).getD 0
  | .msPrefix _ => (findMsStart 0 (searchWords s)).elim 0 (· + 1)
  | _ => 0

/-- Everything a stream instruction does is blocked, or is the rest of a scan after its search. -/
theorem exec_stream_ensures {P : State → Prop} {i : Instr} {s : State} (hd : destOf i = .strm)
    (hb : s.fault ≠ none → P s)
    (hscan : Idle s → ∀ t, ScanOutcome (faultNumber i) (consumeWords (searchUsed i s) s) t → P t) :
    Ensures P (exec i s) := by
  cases i with
  | scanRoc | markRocStart0 | markRocStart1 | markRocEnd0 | markRocEnd1 =>
    exact .whenIdle hb fun hi => (afterRocSearch_outcome _ s).mono (hscan hi)
  | scanMs | markMsStart | markMsEnd =>
    exact .whenIdle hb fun hi => (afterMsSearch_outcome _ s).mono (hscan hi)
  | msPrefix n =>
    refine .whenIdle hb fun hi => .mono ?_ (hscan hi)
    simp only [searchUsed]
    split <;> rename_i hf <;> rw [hf]
    · exact scanFoundNothing_outcome _ s
    · exact msWindow_outcome n _
  | _ => cases hd

/-! ### How far a search looks -/

theorem findRocStart_bounds {prev : Option Word} {used used' : Nat} {ws : List Word}
    (h : findRocStart prev used ws = some used') : used < used' ∧ used' ≤ used + ws.length := by
  obtain ⟨-, h0, rfl⟩ | ⟨-, j, rfl, -, h1, -⟩ := findRocStart_some h
  · have := (List.getElem?_eq_some_iff.1 h0).1
    omega
  · have := (List.getElem?_eq_some_iff.1 h1).1
    omega

theorem findMsStart_bounds {used used' : Nat} {ws : List Word} (h : findMsStart used ws = some used') :
    used < used' ∧ used' ≤ used + ws.length := by
  obtain ⟨j, rfl, h0, -⟩ := findMsStart_some h
  have := (List.getElem?_eq_some_iff.1 h0).1
  omega

/-- The word a walked element of the stream stands for is there: the start marker of `SCAN_MS`, or the length word
behind it. The other elements of the stream are met by a search, which looks at words that are there. -/
def WordMet (i : Instr) (s : State) : Prop :=
  match i with
  | .markMsStart => strmNext s ≠ none
  | .msPrefix _ => prefixAhead s ≠ none
  | _ => True

/-- A search that looks through the words ahead consumes words of the stream only. -/
theorem search_inStream {s : State} {found : Option Nat} (hs : s.InStream)
    (h : ∀ used, found = some used → used ≤ (searchWords s).length) : (consumeWords (found.getD 0) s).InStream := by
  refine consumeWords_inStream fun hc => ?_
  have hpos := hs hc
  have hlen := searchWords_length_of_finite hc
  cases found with
  | none => simpa
  | some used =>
    have hused := h used rfl
    simp only [Option.getD_some]
    omega

/-- So does a search whose first word has been met already. -/
theorem searchMet_inStream {s : State} {found : Option Nat} (hs : s.InStream)
    (h : ∀ used, found = some used → 1 < used ∧ used ≤ 1 + (searchWords s).tail.length) :
    (consumeWords (found.getD 0) s).InStream :=
  search_inStream hs fun used hu => by
    have hused := h used hu
    have htail := (searchWords s).length_tail
    omega

theorem searchUsed_inStream {i : Instr} {s : State} (hs : s.InStream) (hm : WordMet i s) :
    (consumeWords (searchUsed i s) s).InStream := by
  cases i with
  | scanRoc => exact search_inStream hs fun used hu => by simpa using (findRocStart_bounds hu).2
  | scanMs => exact search_inStream hs fun used hu => by simpa using (findMsStart_bounds hu).2
  | markRocStart0 | markRocStart1 | markRocEnd0 | markRocEnd1 =>
    exact searchMet_inStream hs fun used => findRocStart_bounds
  | markMsEnd => exact searchMet_inStream hs fun used => findMsStart_bounds
  | markMsStart => exact inStream_of_strmNext hm
  | msPrefix n =>
    simp only [WordMet, prefixAhead, searchUsed] at hm ⊢
    split at hm
    · exact absurd rfl hm
    · rename_i used hu
      rw [hu]
      exact inStream_of_strmNext hm
  | _ => exact hs

end Sys2Proof.Machine

/-! PROOFS of the family 10_state, second part: the invariant holds at reset and every step keeps it. -/

namespace Sys2Proof.Machine

/-! ### Legal numbers of links -/

theorem Params.nLinks_range {p : Params} (h : p.wf = true) : 1 ≤ p.nLinks ∧ p.nLinks ≤ 12 := by
  simp only [Params.wf, Bool.and_eq_true, decide_eq_true_eq] at h
  omega

theorem Params.maxWindow_le {p : Params} (h : p.wf = true) : p.maxWindow ≤ p.ibufWords := by
  simp only [Params.wf, Bool.and_eq_true, decide_eq_true_eq] at h
  omega

/-- `CFG_NLINKS` after reset is `N_LINKS` (R30). -/
theorem resetWith_cfgNlinks {p : Params} (h : p.wf = true) (st : Stream) (sc : List HostAction) (f : BitBuf) (d : Nat) :
    (State.resetWith p st sc f d).cfgNlinks.toNat = p.nLinks := by
  have := Params.nLinks_range h
  simp only [State.resetWith, BitVec.toNat_ofNat]
  omega

/-! ### Reset -/

theorem resetWith_inv {p : Params} (h : p.wf = true) (st : Stream) (sc : List HostAction) {f : BitBuf}
    (hf : Memory.wf f.mem = true) (d : Nat) : (State.resetWith p st sc f d).Inv where
  params := h
  ibuf := rfl
  obuf := rfl
  cursor := Nat.le_refl 0
  ilen := Nat.zero_le _
  writeCursor := Nat.zero_le _
  olen := by simp only [State.resetWith, ceilWords, Nat.reduceAdd, Nat.reduceDiv]
  nlinks := by
    rw [resetWith_cfgNlinks h]
    exact Params.nLinks_range h
  faultClear := fun _ => ⟨rfl, rfl⟩
  codeErr := rfl
  samples := Nat.zero_le _
  strmPos := fun _ => Nat.zero_le _
  frame := hf

/-! ### What an operation that does not complete leaves -/

theorem freeCursor_le (s : State) : freeCursor s ≤ 32 * s.spanLen :=
  Nat.lt_succ_iff.1 (Nat.mod_lt _ (Nat.succ_pos _))

theorem freeWriteCursor_le (s : State) : freeWriteCursor s ≤ 32 * s.params.obufWords :=
  Nat.lt_succ_iff.1 (Nat.mod_lt _ (Nat.succ_pos _))

theorem freeMsRecord_nSamples (s : State) : (freeMsRecord s).nSamples ≤ s.params.maxSamples :=
  List.length_take_le _ _

/-- A free value stays within the bound its register has (R12, R20, R24, log 8). -/
theorem State.Inv.spoil {s : State} (h : s.Inv) (dst : Dest) : (spoil dst s).Inv := by
  cases dst with
  | nothing => exact h
  | resOnly => exact { h with }
  | res | crcr | daq | trig | roc | erx | econd => exact { h with cursor := freeCursor_le s }
  | ms => exact { h with cursor := freeCursor_le s, samples := freeMsRecord_nSamples s }
  | fmt =>
    exact
      { h with
        obuf := Memory.wf_ofCells _ _, cursor := freeCursor_le s, writeCursor := freeWriteCursor_le s, olen := rfl }
  | strm =>
    exact { h with ibuf := Memory.wf_ofCells _ _, cursor := Nat.le_refl 0, ilen := Nat.zero_le _ }

theorem State.Inv.abort {s : State} (h : s.Inv) (dst : Dest) (op : BitVec 6) (e : Raise) : (abort dst op e s).Inv :=
  { h.spoil dst with faultClear := fun hf => nomatch hf }

theorem State.Inv.unfinished {s : State} (h : s.Inv) (dst : Dest) (op : BitVec 6) : Unfinished State.Inv dst op s :=
  ⟨fun _ => h, fun _ e => h.abort dst op e⟩

/-! ### What the shared operations leave -/

/-- The invariant bounds the cursor by the span, and sees nothing else of it. -/
theorem State.Inv.withCursor {s : State} (h : s.Inv) {q : Nat} (hq : q ≤ 32 * s.spanLen) : { s with p := q }.Inv :=
  { h with cursor := hq }

theorem State.Inv.withAcc {s : State} (h : s.Inv) {c : Acc} (hc : s.log.GrowsTo c.log) : (s.withAcc c).Inv :=
  { h with codeErr := hc.2.trans h.codeErr }

theorem State.Inv.withLog {s : State} (h : s.Inv) {l : Log} (hl : s.log.GrowsTo l) : { s with log := l }.Inv :=
  { h with codeErr := hl.2.trans h.codeErr }

/-- A decode that ran: its result stored keeps the invariant, or its structural error does. -/
theorem State.Inv.finish {α : Type} {dst : Dest} {op : BitVec 6} {s : State} (h : s.Inv) {r : Run α}
    {put : α → State → State} (hlog : s.log.GrowsTo r.accOf.log)
    (hput : ∀ a c, r = .done a c → (s.withAcc c).Inv → (put a (s.withAcc c)).Inv) :
    Ensures State.Inv (finish dst op s r put) := by
  refine .finish (fun a c hr => hput a c hr (h.withAcc ?_)) fun e c hr => (h.withAcc ?_).abort _ _ _
  all_goals rwa [hr] at hlog

theorem State.Inv.withFmt {s : State} (h : s.Inv) {f : BitBuf} (hm : Memory.wf f.mem = true)
    (ho : f.op ≤ 32 * s.params.obufWords) : (s.withFmt f).Inv :=
  { h with obuf := hm, writeCursor := ho, olen := rfl }

theorem State.Inv.appendFrame {s : State} (h : s.Inv) (n v : Nat) : (appendFrame n v s).Inv :=
  { h with frame := appendFrame_wf n v h.frame }

theorem State.Inv.putFrameByte {s : State} (h : s.Inv) (a : Nat) (b : Byte) :
    { s with frame := { s.frame with mem := Memory.writeByte s.frame.mem a b } }.Inv :=
  { h with frame := Memory.wf_writeByte h.frame a b }

theorem State.Inv.drawFrameWord {s : State} (h : s.Inv) : (drawFrameWord s).2.Inv :=
  { h with }

/-! ### The formatter -/

theorem writeSubpacket_ok {pr : Params} {zsEn : Bool} {ws : List Word} {f f' : BitBuf}
    (h : writeSubpacket pr zsEn ws f = .ok f') (hm : Memory.wf f.mem = true) (ho : f.op ≤ 32 * pr.obufWords) :
    Memory.wf f'.mem = true ∧ f'.op ≤ 32 * pr.obufWords := by
  unfold writeSubpacket at h
  split at h
  · cases h
  · obtain ⟨hm₁, -, -⟩ := writeFields_ok ‹_› hm ho
    obtain ⟨rfl, -, hle⟩ := writeField_ok h
    exact ⟨writeBits_wf _ _ hm₁, hle⟩

theorem exactHeader_wf (pr : Params) (olen : Nat) {m : Memory} (h : Memory.wf m = true) :
    Memory.wf (exactHeader pr olen m) = true :=
  Memory.wf_writeWord (Memory.wf_writeWord h _ _) _ _

theorem finishPacket_ok {pr : Params} {olen : Nat} {f f' : BitBuf} (h : finishPacket pr olen f = .ok f')
    (hm : Memory.wf f.mem = true) : Memory.wf f'.mem = true ∧ f'.op ≤ 32 * pr.obufWords := by
  unfold finishPacket at h
  split at h <;> obtain ⟨rfl, -, hle⟩ := writeField_ok h
  · exact ⟨writeBits_wf _ _ hm, hle⟩
  · exact ⟨writeBits_wf _ _ (exactHeader_wf pr olen hm), hle⟩

/-! ### The stream operations -/

theorem State.Inv.port {s u : State} (h : s.Inv) (hp : PortMoved s u) : u.Inv := by
  have hb : u.InStream := hp.bound h.strmPos
  rw [hp.same] at hb ⊢
  exact { h with strmPos := hb }

theorem State.Inv.openWindow {s : State} (h : s.Inv) {ws : List Word} (hw : ws.length ≤ s.params.maxWindow) :
    (openWindow ws s).Inv :=
  { h with
    ibuf := Memory.wf_writeWords h.ibuf 0 ws, cursor := Nat.zero_le _,
    ilen := hw.trans (Params.maxWindow_le h.params) }

theorem State.Inv.scanOutcome {op : BitVec 6} {s t : State} (h : s.Inv) (ho : ScanOutcome op s t) : t.Inv := by
  cases ho with
  | ended u port eq => exact eq ▸ { h.port port with }
  | raised u port e eq => exact eq ▸ (h.port port).abort _ _ _
  | opened u port ws fits eq =>
    have hpar : u.params = s.params := by rw [port.same]
    exact eq ▸ (h.port port).openWindow (hpar ▸ fits)

/-- A scan keeps the invariant when its search stays within the stream. -/
theorem State.Inv.exec_stream {i : Instr} {s : State} (h : s.Inv) (hd : destOf i = .strm) (hm : WordMet i s) :
    Ensures State.Inv (exec i s) := by
  refine exec_stream_ensures hd (fun _ => h) fun _ t => State.Inv.scanOutcome ?_
  exact h.port (.consumeWords fun hs => searchUsed_inStream hs hm)

/-- So does `SCAN_ROC` after any first word, a marker or not. -/
theorem State.Inv.scanRocMeets {s : State} (h : s.Inv) (w : Word) : Ensures State.Inv (scanRocMeets w s) := by
  refine .whenIdle (fun _ => h) fun _ => (afterRocSearch_outcome _ s).mono fun t => State.Inv.scanOutcome ?_
  exact h.port (.consumeWords fun hs => searchMet_inStream hs fun used => findRocStart_bounds)

/-! ### Every instruction -/

/-- Every instruction keeps the invariant; a walked element of the stream, where its word is there. -/
theorem exec_keepsInv {i : Instr} {s : State} (h : s.Inv) (hm : WordMet i s) : Ensures State.Inv (exec i s) := by
  unfold exec
  cases i with
  | sample | daqCm | trigSoft | econdHdr0 | erxHdr0 | erxHdr1 | ptSample =>
    refine .onWord (h.unfinished _ _) fun _ hp => .next ?_
    exact { h with cursor := hp }
  | daqHdr | econdHdr1 | econdTrl =>
    refine .onWord (h.unfinished _ _) fun _ hp => .next ?_
    exact { (h.withCursor hp).withLog (Log.growsTo_setHdrWarn _ _) with }
  | trigData =>
    refine .onWord (h.unfinished _ _) fun _ hp => .next ?_
    exact { (h.withCursor hp).withLog (Log.growsTo_setSyncWarn _ _) with }
  | zs0000 | zs0001 | zs0010 | zs0011 | fp01 | fp10 | fp11 =>
    exact .recordAt (h.unfinished _ _) fun hp =>
      { (h.withCursor hp).withLog (Log.growsTo_setInvalidCode _ _) with }
  | daqCrc | rocLen | rocLtab =>
    refine .onWord (h.unfinished _ _) fun _ hp => .ite (fun _ => .next (h.abort _ _ _)) fun _ => .next ?_
    exact { h with cursor := hp }
  | msHdr =>
    refine .onWord (h.unfinished _ _) fun _ hp => .ite (fun _ => .next (h.abort _ _ _)) fun hroom => ?_
    refine (h.withCursor hp).finish (msGroup_log _ _ _ _ _ _ _ _ _ s.acc) fun m c hr h' => ?_
    obtain ⟨hlen, hfit⟩ := msGroup_samples hr
    rw [length_spanWords] at hfit
    refine { h' with cursor := Nat.mul_le_mul_left 32 hfit, samples := ?_ }
    show m.samples.length ≤ s.params.maxSamples
    omega
  | markRocStart0 | markRocStart1 | markRocEnd0 | markRocEnd1 | markMsStart | markMsEnd | msPrefix | scanRoc | scanMs =>
    exact h.exec_stream rfl hm
  | crc32 => exact .ite (fun _ => .next (h.appendFrame _ _)) fun _ => .next (h.drawFrameWord.appendFrame _ _)
  | crc8 => exact .ite (fun _ => .next (h.putFrameByte _ _)) fun _ => .next (h.drawFrameWord.putFrameByte _ _)
  | pad | raw => exact .next (h.appendFrame _ _)
  | nop => exact .next h
  | clrFault => exact .next { h with faultClear := fun _ => ⟨rfl, rfl⟩ }
  | clrLog => exact .next { h with codeErr := rfl }
  | alignWord =>
    refine .whenIdle (fun _ => h) fun _ => .next (h.withCursor ?_)
    have := h.cursor
    simp only [ceilWords]
    omega
  | atEnd | sampleDec | sampleEnc | crc8U64 => exact .whenIdle (fun _ => h) fun _ => .next { h with }
  | seekWord | seekByte =>
    refine .whenIdle (fun _ => h) fun _ => .ite (fun _ => .next (h.abort _ _ _)) fun hk => .next (h.withCursor ?_)
    omega
  | setSpan =>
    exact .whenIdle (fun _ => h) fun _ => .ite (fun _ => .next (h.abort _ _ _)) fun _ =>
      .next { h with cursor := Nat.zero_le _ }
  | trigCsum | trigLsum =>
    refine .sumOp (h.unfinished _ _) fun _ v => ?_
    exact { h with }
  | rdBits =>
    refine .readArgBits (h.unfinished _ _) fun _ hp v => ?_
    exact { h with cursor := hp }
  | peekBits =>
    refine .readArgBits (h.unfinished _ _) fun _ _ v => ?_
    exact { h with }
  | crc32Span =>
    refine .onSpan (h.unfinished _ _) fun _ => .next ?_
    exact { h with }
  | daqFrom =>
    refine .onSpan (h.unfinished _ _) fun _ => h.finish (daqFrom_log _ _ s.acc) fun d c _ h' => ?_
    exact { h' with }
  | trigFrom =>
    refine .onSpan (h.unfinished _ _) fun _ => h.finish (trigFrom_log _ _ s.acc) fun d c _ h' => ?_
    exact { h' with }
  | erxUnpack =>
    refine .onSpan (h.unfinished _ _) fun _ => h.finish (unpackSubpacket_log _ _ _ s.acc) fun d c hr h' => ?_
    have hn := (unpackSubpacket_nwords hr).2
    rw [length_spanWords] at hn
    exact { h' with cursor := Nat.mul_le_mul_left 32 hn }
  | econdFrom =>
    refine .onSpan (h.unfinished _ _) fun _ => h.finish (econdFrom_log _ _ _ s.acc) fun d c _ h' => ?_
    exact { h' with }
  | msFrom =>
    refine .onSpan (h.unfinished _ _) fun _ => h.finish (msLoop_log _ _ _ _ _ _ s.acc) fun m c hr h' => ?_
    refine { h' with samples := ?_ }
    simpa [Ms.nSamples, Ms.zero] using msLoop_samples hr
  | rocFrom =>
    refine .onSpan (h.unfinished _ _) fun _ => h.finish (rocFrom_log _ _ s.acc) fun d c _ h' => ?_
    exact { h' with }
  | fmtStart =>
    refine .whenIdle (fun _ => h) fun _ => .finishFmt (fun f hf => ?_) fun e => h.abort _ _ _
    obtain ⟨hmem, -, hop⟩ := writeFields_ok hf h.obuf (Nat.zero_le _)
    exact { h.withFmt hmem hop with }
  | fmtAdd =>
    refine .onSpan (h.unfinished _ _) fun _ => .ite (fun _ => .next (h.abort _ _ _)) fun _ =>
      .ite (fun _ => .next (h.abort _ _ _)) fun _ => .ite (fun _ => .next (h.abort _ _ _)) fun _ =>
      .finishFmt (fun f hf => ?_) fun e => h.abort _ _ _
    obtain ⟨hmem, hop⟩ := writeSubpacket_ok hf h.obuf h.writeCursor
    exact { h.withFmt hmem hop with }
  | fmtFinish =>
    refine .whenIdle (fun _ => h) fun _ => .ite (fun _ => .next (h.abort _ _ _)) fun _ =>
      .finishFmt (fun f hf => ?_) fun e => h.abort _ _ _
    obtain ⟨hmem, hop⟩ := finishPacket_ok hf h.obuf
    exact { h.withFmt hmem hop with }

/-! ### The host's actions -/

/-- The operations of the command table: `WordMet` asks nothing of them. -/
theorem wordMet_of_mem_commandTable {n : Nat} {i : Instr} (h : (n, i) ∈ commandTable) (s : State) : WordMet i s := by
  cases i with
  | markMsStart | msPrefix => simp [commandTable] at h
  | _ => trivial

theorem wordMet_of_command {c : BitVec 6} {i : Instr} (h : decodeCommand c = .instr i) (s : State) : WordMet i s := by
  unfold decodeCommand at h
  split at h
  · rename_i j hj
    cases h
    obtain ⟨l, r, hl, -⟩ := List.lookup_eq_some_iff.1 hj
    have hmem : (c.toNat, i) ∈ commandTable := by
      rw [hl]
      exact List.mem_append_right l List.mem_cons_self
    exact wordMet_of_mem_commandTable hmem s
  · cases h

/-- A channel record is no stream element. -/
theorem wordMet_of_record (slot : Nat) (w : Word) (s : State) : WordMet (decodeRecord slot w) s := by
  unfold decodeRecord
  split <;> trivial

/-- A marker is a word of the stream that is there. -/
theorem wordMet_of_marker {kind : ScanKind} {w : Word} {i : Instr} {s : State} (hn : strmNext s ≠ none)
    (hi : decodeMarker kind w = .instr i) : WordMet i s := by
  cases kind with
  | roc =>
    simp only [decodeMarker] at hi
    repeat' split at hi
    all_goals cases hi <;> trivial
  | ms =>
    simp only [decodeMarker] at hi
    split at hi
    · cases hi
      exact hn
    · split at hi <;> cases hi
      trivial

/-- An element decoded from the bits at its place is one whose word is there. -/
theorem wordMet_of_fetch {p : Params} {pl : Place} {s : State} {w : Word} {i : Instr} (hw : fetchWire s pl = some w)
    (hi : decodeAt p pl w = .instr i) : WordMet i s := by
  cases pl with
  | scan kind =>
    have hn : strmNext s ≠ none := by
      rw [show strmNext s = some w from hw]
      exact Option.some_ne_none w
    exact wordMet_of_marker hn hi
  | msPrefix =>
    cases hi
    show prefixAhead s ≠ none
    rw [show prefixAhead s = some w from hw]
    exact Option.some_ne_none w
  | channel slot =>
    simp only [decodeAt] at hi
    split at hi <;> cases hi
    exact wordMet_of_record slot w s
  | trigData | rocLtab | ptSample =>
    simp only [decodeAt] at hi
    split at hi <;> cases hi
    trivial
  | _ =>
    cases hi
    trivial

/-- What a command or a walk runs keeps the invariant: an instruction, or what the decoder rejects. -/
theorem runCoded_keepsInv {c : Coded} {s : State} (h : s.Inv) (hm : ∀ i, decode s.params c = .instr i → WordMet i s) :
    Ensures State.Inv (runCoded c s) := by
  unfold runCoded
  split
  · exact exec_keepsInv h (hm _ ‹_›)
  · unfold rejected
    split
    · exact .next h
    · exact .whenIdle (fun _ => h) fun _ => .next (h.withLog (Log.growsTo_setBadCmd _))
    · exact h.scanRocMeets _
    · exact h.exec_stream (i := .markMsEnd) rfl trivial
    · exact .refused _

theorem State.Inv.acceptCommand {s : State} (h : s.Inv) (c : BitVec 6) : (acceptCommand c s).Inv := by
  unfold Machine.acceptCommand
  split
  · exact h
  · exact { h with }

theorem walkAtEnd_keepsInv {s : State} (h : s.Inv) (pl : Place) : Ensures State.Inv (walkAtEnd pl s) := by
  unfold walkAtEnd
  split
  · exact exec_keepsInv (i := .scanRoc) h trivial
  · exact exec_keepsInv (i := .scanMs) h trivial
  · exact exec_keepsInv (i := .scanMs) h trivial
  · exact .next h

theorem issue_keepsInv (a : HostAction) {s : State} (h : s.Inv) : Ensures State.Inv (issue a s).result := by
  cases a with
  | writeIbuf i w =>
    exact .ite (fun _ => .next { h with ibuf := Memory.wf_writeWord h.ibuf i w }) fun _ => .fault _
  | writeIlen n => exact .ite (fun hn => .next { h with ilen := hn }) fun _ => .refused _
  | writeArg0 | writeArg1 | writeArg2 | writeArg3 | writeZsEn => exact .next { h with }
  | writeNlinks v =>
    refine .next ?_
    split
    · exact { h with nlinks := ‹_› }
    · exact h
  | writeCmd c => exact runCoded_keepsInv (h.acceptCommand c) fun i hi => wordMet_of_command hi _
  | walk pl =>
    simp only [issue]
    split
    · exact runCoded_keepsInv h fun i hi => wordMet_of_fetch ‹_› hi
    · exact walkAtEnd_keepsInv h pl
  | frameNew => exact .next { h with frame := rfl }
  | frameBits n v => exact .next (h.appendFrame n v)
  | frameLoad =>
    exact .ite (fun hn => .next { h with ibuf := Memory.wf_writeWords h.ibuf 0 _, ilen := hn }) fun _ => .refused _
  | reset => exact .next (resetWith_inv h.params _ _ h.frame _)

/-- Settles O58: the default parameters are legal and the frame is empty. -/
theorem invHoldsAtReset : Obligations.InvHoldsAtReset :=
  resetWith_inv (by decide) _ _ rfl 0

/-- Settles O59: an idle block keeps all state, and each host action keeps the invariant with what it runs. -/
theorem stepKeepsInv : Obligations.StepKeepsInv := by
  intro s t hinv h
  cases hs : s.script with
  | nil =>
    rw [step_of_script_nil hs] at h
    cases h
    exact hinv
  | cons a rest =>
    rw [step_of_script_cons hs] at h
    exact issue_keepsInv a (s := { s with script := rest }) { hinv with } t h

end Sys2Proof.Machine

/-! PROOFS of the family 10_state, third part: the command port, the host's writes, and reset. -/

namespace Sys2Proof.Machine

/-! ### The command port -/

/-- What `CMD` holds after a write to it (R304, log 11). -/
theorem acceptCommand_eq (c : BitVec 6) (s : State) :
    acceptCommand c s = { s with cmd := if s.fault ≠ none ∧ 2 < c.toNat then s.cmd else c } := by
  have hblocked : (s.fault.isSome && !actsInFault c) = true ↔ s.fault ≠ none ∧ 2 < c.toNat := by
    simp [actsInFault, Option.isSome_iff_ne_none]
  by_cases h : s.fault ≠ none ∧ 2 < c.toNat
  · rw [acceptCommand, if_pos (hblocked.2 h), if_pos h]
  · rw [acceptCommand, if_neg (mt hblocked.1 h), if_neg h]

theorem runCoded_of_decode {s : State} {c : Coded} {i : Instr} (h : decode s.params c = .instr i) :
    runCoded c s = exec i s := by
  simp only [runCoded, h]

/-- Settles O4: the write reaches the command port, and the number it accepts is decoded and run. -/
theorem stepRunsCommand : Obligations.StepRunsCommand := by
  intro s c rest i hs hi
  rw [step_of_script_cons hs]
  show runCoded (.cmd c) (acceptCommand c { s with script := rest }) = _
  rw [acceptCommand_eq]
  exact runCoded_of_decode hi

/-! ### Words written to a buffer -/

theorem Memory.readByte_writeWords_outside (m : Memory) {i a : Nat} (ws : List Word)
    (ha : a < 4 * i ∨ 4 * (i + ws.length) ≤ a) :
    Memory.readByte (Memory.writeWords m i ws) a = Memory.readByte m a := by
  induction ws generalizing m i with
  | nil => rfl
  | cons w ws ih =>
    rw [List.length_cons] at ha
    exact (ih _ (by omega)).trans (Memory.readByte_writeWord_outside m (by omega) w)

theorem Memory.getElem_words (m : Memory) (i n k : Nat) (hk : k < (Memory.words m i n).length) :
    (Memory.words m i n)[k] = Memory.readWord m (i + k) := by
  simp [Memory.words]

/-- Words copied from one buffer to the start of another read as they did there, and no other byte changes. -/
theorem Memory.copy_words {m : Memory} (h : Memory.wf m = true) (src : Memory) (n : Nat) :
    Memory.wf (Memory.writeWords m 0 (Memory.words src 0 n)) = true
      ∧ (∀ i, i < n → Memory.readWord (Memory.writeWords m 0 (Memory.words src 0 n)) i = Memory.readWord src i)
      ∧ sameBytesOutside 0 (4 * n) m (Memory.writeWords m 0 (Memory.words src 0 n)) := by
  refine ⟨Memory.wf_writeWords h 0 _, fun i hi => ?_, fun a ha => Memory.readByte_writeWords_outside m _ ?_⟩
  · have hlen : i < (Memory.words src 0 n).length := by rwa [Memory.length_words]
    have hread := Memory.readWord_writeWords h 0 _ hlen
    rwa [Memory.getElem_words, Nat.zero_add] at hread
  · rw [Memory.length_words]
    omega

/-! ### The host's writes -/

/-- A host write that changes the state alone is the step. -/
theorem step_of_wrote {s : State} {a : HostAction} {rest : List HostAction} {r : Result} (h : s.script = a :: rest)
    (ha : issue a { s with script := rest } = .wrote r) : step s = r := by
  rw [step_of_script_cons h, ha]
  rfl

/-- Settles O7: each clause is the step of its action; the buffer clauses add what the written words read as. -/
theorem hostWritesLand : Obligations.HostWritesLand := by
  intro s rest
  refine ⟨fun i w hs hi hm => ?ibuf, fun i w hs hi => ?noSuchWord, fun v hs => step_of_wrote hs rfl,
    fun v hs => step_of_wrote hs rfl, fun v hs => step_of_wrote hs rfl, fun v hs => step_of_wrote hs rfl,
    fun n hs hn => ?ilen, fun n hs hn => ?ilenRefused, fun v hs h1 h12 => ?nlinks, fun v hs hv => ?nlinksKept,
    fun b hs => step_of_wrote hs rfl, fun hs => step_of_wrote hs rfl, fun n v hs => step_of_wrote hs rfl,
    fun hs hn hm => ?load, fun hs hn => ?loadRefused⟩
  case ibuf =>
    exact ⟨_, (step_of_wrote hs rfl).trans (if_pos hi), Memory.wf_writeWord hm i w,
      Memory.readWord_writeWord_same hm i w, fun a ha => Memory.readByte_writeWord_outside s.ibuf ha w⟩
  case noSuchWord => exact (step_of_wrote hs rfl).trans (if_neg (Nat.not_lt.2 hi))
  case ilen => exact (step_of_wrote hs rfl).trans (if_pos hn)
  case ilenRefused => exact (step_of_wrote hs rfl).trans (if_neg (Nat.not_le.2 hn))
  case nlinks => exact (step_of_wrote hs rfl).trans (congrArg _ (if_pos ⟨h1, h12⟩))
  case nlinksKept => exact (step_of_wrote hs rfl).trans (congrArg _ (if_neg (by omega)))
  case load => exact ⟨_, (step_of_wrote hs rfl).trans (if_pos hn), Memory.copy_words hm s.frame.mem _⟩
  case loadRefused => exact (step_of_wrote hs rfl).trans (if_neg (Nat.not_le.2 hn))

/-! ### Reset -/

/-- Settles O57: the state after reset and the one the reset input leaves are the same table, for the parameters at
hand. -/
theorem resetRestoresTable : Obligations.ResetRestoresTable := by
  unfold Obligations.ResetRestoresTable
  intro Table
  have table (p : Params) (st : Stream) (sc : List HostAction) (f : BitBuf) (d : Nat) :
      Table (State.resetWith p st sc f d) :=
    ⟨rfl, rfl, rfl, rfl, rfl, rfl, rfl, rfl, rfl, rfl, rfl, rfl, rfl, rfl, rfl, rfl, rfl, rfl, rfl, rfl, rfl, rfl, rfl,
      rfl, rfl, rfl, rfl, rfl, rfl, fun hp => resetWith_cfgNlinks hp st sc f d, rfl, rfl, rfl⟩
  exact ⟨table _ _ _ _ _, fun s rest hs => ⟨_, step_of_wrote hs rfl, table _ _ _ _ _, rfl, rfl, rfl, rfl, rfl⟩⟩

end Sys2Proof.Machine

/-! PROOFS of the family 10_state, fourth part: what every instruction may write when it completes, and what is left
when it raises; each clause about a record, a register or a flag is read off these. -/

namespace Sys2Proof.Machine

/-! ### `LOG`: the bits that may be set -/

theorem Log.keptIn_iff {l l' : Log} :
    l.keptIn l' = true
      ↔ (l.invalidCode = true → l'.invalidCode = true) ∧ (l.codeErr = true → l'.codeErr = true)
        ∧ (l.syncWarn = true → l'.syncWarn = true) ∧ (l.badCmd = true → l'.badCmd = true)
        ∧ (l.hdrWarn = true → l'.hdrWarn = true) := by
  simp only [Log.keptIn, Bool.and_eq_true, Bool.or_eq_true, Bool.not_eq_true', Bool.eq_false_iff, ne_eq,
    ← imp_iff_not_or, and_assoc]

theorem Log.keptIn_join (l bits : Log) : l.keptIn (l.join bits) = true := by
  simp only [Log.keptIn_iff, Log.join, Bool.or_eq_true]
  exact ⟨.inl, .inl, .inl, .inl, .inl⟩

section
variable {l top : Log}

theorem Log.setInvalidCode_keptIn (hb : top.invalidCode = true) (h : l.keptIn top = true) (b : Bool) :
    (l.setInvalidCode b).keptIn top = true :=
  Log.keptIn_iff.2 ⟨fun _ => hb, (Log.keptIn_iff.1 h).2⟩

theorem Log.setSyncWarn_keptIn (hb : top.syncWarn = true) (h : l.keptIn top = true) (b : Bool) :
    (l.setSyncWarn b).keptIn top = true := by
  obtain ⟨hinv, herr, -, hcmd, hhdr⟩ := Log.keptIn_iff.1 h
  exact Log.keptIn_iff.2 ⟨hinv, herr, fun _ => hb, hcmd, hhdr⟩

theorem Log.setHdrWarn_keptIn (hb : top.hdrWarn = true) (h : l.keptIn top = true) (b : Bool) :
    (l.setHdrWarn b).keptIn top = true := by
  obtain ⟨hinv, herr, hsync, hcmd, -⟩ := Log.keptIn_iff.1 h
  exact Log.keptIn_iff.2 ⟨hinv, herr, hsync, hcmd, fun _ => hb⟩

end

theorem Log.join_invalidCode {bits : Log} (hb : bits.invalidCode = true) (l : Log) :
    (l.join bits).invalidCode = true := by
  simp only [Log.join, hb, Bool.or_true]

theorem Log.join_syncWarn {bits : Log} (hb : bits.syncWarn = true) (l : Log) : (l.join bits).syncWarn = true := by
  simp only [Log.join, hb, Bool.or_true]

theorem Log.join_hdrWarn {bits : Log} (hb : bits.hdrWarn = true) (l : Log) : (l.join bits).hdrWarn = true := by
  simp only [Log.join, hb, Bool.or_true]

/-- From `l` to `l'` no bit is cleared (R25) and none but those of `bits` is set. -/
structure Log.SetsOnly (bits l l' : Log) : Prop where
  kept : l.keptIn l' = true
  within : l'.keptIn (l.join bits) = true

theorem Log.SetsOnly.refl (bits l : Log) : Log.SetsOnly bits l l :=
  ⟨(Log.growsTo_refl l).1, Log.keptIn_join l bits⟩

theorem Log.SetsOnly.setInvalidCode {bits : Log} {b : Bool} (hb : b = true → bits.invalidCode = true) (l : Log) :
    Log.SetsOnly bits l (l.setInvalidCode b) := by
  cases b with
  | false =>
    rw [show l.setInvalidCode false = l by simp only [Log.setInvalidCode, Bool.or_false]]
    exact .refl bits l
  | true =>
    exact ⟨(Log.growsTo_setInvalidCode l true).1,
      Log.setInvalidCode_keptIn (Log.join_invalidCode (hb rfl) l) (Log.keptIn_join l bits) true⟩

theorem Log.SetsOnly.setSyncWarn {bits : Log} (hb : bits.syncWarn = true) (l : Log) (b : Bool) :
    Log.SetsOnly bits l (l.setSyncWarn b) :=
  ⟨(Log.growsTo_setSyncWarn l b).1, Log.setSyncWarn_keptIn (Log.join_syncWarn hb l) (Log.keptIn_join l bits) b⟩

theorem Log.SetsOnly.setHdrWarn {bits : Log} (hb : bits.hdrWarn = true) (l : Log) (b : Bool) :
    Log.SetsOnly bits l (l.setHdrWarn b) :=
  ⟨(Log.growsTo_setHdrWarn l b).1, Log.setHdrWarn_keptIn (Log.join_hdrWarn hb l) (Log.keptIn_join l bits) b⟩

/-- A bit that is none of `bits` keeps its value: `code_err` (R193) and `bad_cmd` (R323). -/
theorem Log.SetsOnly.others {bits l l' : Log} (h : Log.SetsOnly bits l l') (he : bits.codeErr = false)
    (hc : bits.badCmd = false) : l'.codeErr = l.codeErr ∧ l'.badCmd = l.badCmd := by
  obtain ⟨-, herr, -, hcmd, -⟩ := Log.keptIn_iff.1 h.kept
  obtain ⟨-, herr', -, hcmd', -⟩ := Log.keptIn_iff.1 h.within
  simp only [Log.join, he, hc, Bool.or_false] at herr' hcmd'
  exact ⟨Bool.eq_iff_iff.2 ⟨herr', herr⟩, Bool.eq_iff_iff.2 ⟨hcmd', hcmd⟩⟩

/-- No instruction is named for `code_err` or `bad_cmd`. -/
theorem logBitsOf_others (i : Instr) : (logBitsOf i).codeErr = false ∧ (logBitsOf i).badCmd = false := by
  cases i <;> exact ⟨rfl, rfl⟩

/-! ### `LOG`: which bits a decode may set

`top` bounds the bits: a decode that starts below it, and whose own bits it has, ends below it. -/

section
variable {top : Log}

theorem daqFrom_log_within (hh : top.hdrWarn = true) (pr : Params) (ws : List Word) {c : Acc}
    (h : c.log.keptIn top = true) : (daqFrom pr ws c).accOf.log.keptIn top = true := by
  unfold daqFrom
  split
  · exact h
  · exact Log.setHdrWarn_keptIn hh h _

theorem trigFrom_log_within (hs : top.syncWarn = true) (pr : Params) (ws : List Word) {c : Acc}
    (h : c.log.keptIn top = true) : (trigFrom pr ws c).accOf.log.keptIn top = true := by
  unfold trigFrom
  split
  · exact h
  · exact Log.setSyncWarn_keptIn hs h _

theorem unpackSlots_log_within (hi : top.invalidCode = true) (o : ChmapOrder) (ws : List Word) (n slot p : Nat)
    (d : Link) {c : Acc} (h : c.log.keptIn top = true) :
    (unpackSlots o ws n slot p d c).accOf.log.keptIn top = true := by
  induction n generalizing slot p d c with
  | zero => exact h
  | succ n ih =>
    unfold unpackSlots
    split
    · split
      · exact h
      · exact ih _ _ _ (Log.setInvalidCode_keptIn hi h _)
    · exact ih _ _ _ h

theorem unpackSubpacket_log_within (hi : top.invalidCode = true) (pr : Params) (ws : List Word) (pt : Bool) {c : Acc}
    (h : c.log.keptIn top = true) : (unpackSubpacket pr ws pt c).accOf.log.keptIn top = true := by
  unfold unpackSubpacket
  dsimp only
  split
  · exact h
  split
  · exact h
  split
  · exact h
  split
  · split <;> exact h
  · generalize applyErxHdr1 _ _ = d
    have hslots := unpackSlots_log_within hi pr.chmapOrder ws 37 0 64 d h
    split <;> rename_i hr <;> rwa [hr] at hslots

theorem unpackLinks_log_within (hi : top.invalidCode = true) (pr : Params) (ws : List Word) (e : Econd) (n off : Nat)
    {c : Acc} (h : c.log.keptIn top = true) : (unpackLinks pr ws e n off c).accOf.log.keptIn top = true := by
  induction n generalizing off c with
  | zero => exact h
  | succ n ih =>
    have hsub := unpackSubpacket_log_within hi pr (ws.drop off) e.passthrough h
    unfold unpackLinks
    split <;> rename_i hr <;> rw [hr] at hsub
    · exact hsub
    · rename_i d c'
      have hrest := ih (off + d.nwords) (c := c') hsub
      split <;> rename_i hr' <;> rwa [hr'] at hrest

theorem econdFrom_log_within (hi : top.invalidCode = true) (hh : top.hdrWarn = true) (pr : Params) (n : Nat)
    (ws : List Word) {c : Acc} (h : c.log.keptIn top = true) : (econdFrom pr n ws c).accOf.log.keptIn top = true := by
  unfold econdFrom
  dsimp only
  split
  · exact h
  split
  · exact Log.setHdrWarn_keptIn hh h _
  · have hlinks := unpackLinks_log_within hi pr ws (econdHeader pr n c.draws (wordAt ws 0) (wordAt ws 1)) n 2
      (c := { c with draws := c.draws + 2 }) h
    split <;> rename_i hr <;> rw [hr] at hlinks
    · exact hlinks
    · split
      · exact hlinks
      · exact Log.setHdrWarn_keptIn hh hlinks _

theorem msGroup_log_within (hi : top.invalidCode = true) (hh : top.hdrWarn = true) (pr : Params) (n : Nat)
    (ws : List Word) (off : Nat) (flag : BitVec 4) (iSample : BitVec 11) (soi : Bool) (length : BitVec 16) (m : Ms)
    {c : Acc} (h : c.log.keptIn top = true) :
    (msGroup pr n ws off flag iSample soi length m c).accOf.log.keptIn top = true := by
  have hpacket := econdFrom_log_within hi hh pr n ((ws.drop (off + 1)).take length.toNat) h
  unfold msGroup
  split
  · exact h
  · split <;> rename_i hr <;> rwa [hr] at hpacket

theorem msLoop_log_within (hi : top.invalidCode = true) (hh : top.hdrWarn = true) (pr : Params) (n : Nat)
    (ws : List Word) (room off : Nat) (m : Ms) {c : Acc} (h : c.log.keptIn top = true) :
    (msLoop pr n ws room off m c).accOf.log.keptIn top = true := by
  induction room generalizing off m c with
  | zero =>
    unfold msLoop
    split <;> exact h
  | succ room ih =>
    unfold msLoop
    dsimp only
    split
    · have hgroup := msGroup_log_within hi hh pr n ws off (pr.msLayout.flag.get (wordAt ws off) 4)
        (pr.msLayout.index.get (wordAt ws off) 11) ((pr.msLayout.soi.get (wordAt ws off) 1).getLsbD 0)
        (pr.msLayout.length.get (wordAt ws off) 16) m h
      split <;> rename_i hr <;> rw [hr] at hgroup
      · exact hgroup
      · exact ih _ _ hgroup
    · exact h

theorem rocSlices_log_within (hh : top.hdrWarn = true) (pr : Params) (ws : List Word) (n i off : Nat) (r : Roc)
    {c : Acc} (h : c.log.keptIn top = true) : (rocSlices pr ws n i off r c).accOf.log.keptIn top = true := by
  induction n generalizing i off r c with
  | zero => exact h
  | succ n ih =>
    unfold rocSlices
    dsimp only
    split
    · exact h
    split
    · have hdaq := daqFrom_log_within hh pr ((ws.drop off).take (linkLenOf r i)) h
      split <;> rename_i hr <;> rw [hr] at hdaq
      · exact hdaq
      · exact ih _ _ _ hdaq
    · exact ih _ _ _ h

theorem rocFrom_log_within (hh : top.hdrWarn = true) (pr : Params) (ws : List Word) {c : Acc}
    (h : c.log.keptIn top = true) : (rocFrom pr ws c).accOf.log.keptIn top = true := by
  unfold rocFrom
  split
  · exact h
  split
  · exact h
  split
  · exact h
  · exact rocSlices_log_within hh _ _ _ _ _ _ h

end

/-! ### What an instruction may write when it completes -/

/-- `s` with the destination's registers taken from `t`. -/
def Dest.taken (dst : Dest) (t s : State) : State :=
  match dst with
  | .nothing => s
  | .resOnly | .res => { s with res := t.res }
  | .crcr => { s with crc32 := t.crc32 }
  | .daq => { s with daq := t.daq }
  | .trig => { s with trig := t.trig }
  | .roc => { s with roc := t.roc }
  | .erx => { s with erx := t.erx, erxConsumed := t.erxConsumed }
  | .econd => { s with econd := t.econd }
  | .ms => { s with ms := t.ms }
  | .fmt =>
    { s with obuf := t.obuf, olen := t.olen, op := t.op, fmtOpen := t.fmtOpen, fmtNlinks := t.fmtNlinks }
  | .strm =>
    { s with
      ibuf := t.ibuf, ilen := t.ilen, spanBase := t.spanBase, spanLen := t.spanLen, res := t.res, strmPos := t.strmPos,
      strmEof := t.strmEof }

/-- `s` with everything instruction `i` may write on completion taken from `t`: its destination, the cursor, `LOG` and
the count of free values; for an instruction whose result is no destination of R303, what its rule names. -/
def footprint (i : Instr) (t s : State) : State :=
  match i with
  | .pad | .crc32 .. | .crc8 | .raw .. => { s with frame := t.frame, draws := t.draws }
  | .clrFault => { s with fault := t.fault, faultInfo := t.faultInfo, faultOp := t.faultOp }
  | .setSpan => { s with spanBase := t.spanBase, spanLen := t.spanLen, p := t.p }
  | .atEnd => { s with res := t.res }
  | .crc8U64 => { s with crc8 := t.crc8 }
  | .sampleDec | .sampleEnc => { s with samp := t.samp }
  | .sample .. => { s with samp := t.samp, p := t.p }
  | _ => (destOf i).taken t { s with p := t.p, log := t.log, draws := t.draws }

section
variable {i : Instr} {s t : State} (hw : t = footprint i t s)
include hw

theorem daq_of_footprint (h : destOf i ≠ .daq) : t.daq = s.daq := by
  rw [hw]
  cases i with
  | daqFrom | daqHdr | daqCm | daqCrc => exact absurd rfl h
  | _ => rfl

theorem trig_of_footprint (h : destOf i ≠ .trig) : t.trig = s.trig := by
  rw [hw]
  cases i with
  | trigFrom | trigSoft | trigData => exact absurd rfl h
  | _ => rfl

theorem roc_of_footprint (h : destOf i ≠ .roc) : t.roc = s.roc := by
  rw [hw]
  cases i with
  | rocFrom | rocLen | rocLtab => exact absurd rfl h
  | _ => rfl

theorem erx_of_footprint (h : destOf i ≠ .erx) : t.erx = s.erx ∧ t.erxConsumed = s.erxConsumed := by
  rw [hw]
  cases i with
  | erxUnpack | erxHdr0 | erxHdr1 | ptSample | zs0000 | zs0001 | zs0010 | zs0011 | fp01 | fp10 | fp11 =>
    exact absurd rfl h
  | _ => exact ⟨rfl, rfl⟩

theorem econd_of_footprint (h : destOf i ≠ .econd) : t.econd = s.econd := by
  rw [hw]
  cases i with
  | econdFrom | econdHdr0 | econdHdr1 | econdTrl => exact absurd rfl h
  | _ => rfl

theorem ms_of_footprint (h : destOf i ≠ .ms) : t.ms = s.ms := by
  rw [hw]
  cases i with
  | msFrom | msHdr => exact absurd rfl h
  | _ => rfl

theorem fmt_of_footprint (h : destOf i ≠ .fmt) :
    t.obuf = s.obuf ∧ t.olen = s.olen ∧ t.op = s.op ∧ t.fmtOpen = s.fmtOpen ∧ t.fmtNlinks = s.fmtNlinks := by
  rw [hw]
  cases i with
  | fmtStart | fmtAdd | fmtFinish => exact absurd rfl h
  | _ => exact ⟨rfl, rfl, rfl, rfl, rfl⟩

theorem span_of_footprint (h : destOf i ≠ .strm) (hset : i ≠ .setSpan) :
    t.spanBase = s.spanBase ∧ t.spanLen = s.spanLen := by
  rw [hw]
  cases i with
  | scanRoc | scanMs | markRocStart0 | markRocStart1 | markRocEnd0 | markRocEnd1 | markMsStart | markMsEnd | msPrefix =>
    exact absurd rfl h
  | setSpan => exact absurd rfl hset
  | _ => exact ⟨rfl, rfl⟩

theorem input_of_footprint (h : destOf i ≠ .strm) :
    t.ibuf = s.ibuf ∧ t.ilen = s.ilen ∧ t.strmPos = s.strmPos ∧ t.strmEof = s.strmEof := by
  rw [hw]
  cases i with
  | scanRoc | scanMs | markRocStart0 | markRocStart1 | markRocEnd0 | markRocEnd1 | markMsStart | markMsEnd | msPrefix =>
    exact absurd rfl h
  | _ => exact ⟨rfl, rfl, rfl, rfl⟩

theorem res_of_footprint (hbits : destOf i ≠ .resOnly) (hsum : destOf i ≠ .res) (hstrm : destOf i ≠ .strm)
    (hend : i ≠ .atEnd) : t.res = s.res := by
  rw [hw]
  cases i with
  | rdBits | peekBits => exact absurd rfl hbits
  | trigCsum | trigLsum => exact absurd rfl hsum
  | scanRoc | scanMs | markRocStart0 | markRocStart1 | markRocEnd0 | markRocEnd1 | markMsStart | markMsEnd | msPrefix =>
    exact absurd rfl hstrm
  | atEnd => exact absurd rfl hend
  | _ => rfl

theorem crc32_of_footprint (h : destOf i ≠ .crcr) : t.crc32 = s.crc32 := by
  rw [hw]
  cases i with
  | crc32Span => exact absurd rfl h
  | _ => rfl

theorem crc8_of_footprint (h : i ≠ .crc8U64) : t.crc8 = s.crc8 := by
  rw [hw]
  cases i with
  | crc8U64 => exact absurd rfl h
  | _ => rfl

theorem samp_of_footprint (hdec : i ≠ .sampleDec) (henc : i ≠ .sampleEnc)
    (hwalk : ∀ tc tp a m u, i ≠ .sample tc tp a m u) : t.samp = s.samp := by
  rw [hw]
  cases i with
  | sampleDec => exact absurd rfl hdec
  | sampleEnc => exact absurd rfl henc
  | sample => exact absurd rfl (hwalk _ _ _ _ _)
  | _ => rfl

theorem registers_of_footprint :
    t.cmd = s.cmd ∧ t.arg0 = s.arg0 ∧ t.arg1 = s.arg1 ∧ t.arg2 = s.arg2 ∧ t.arg3 = s.arg3
      ∧ t.cfgNlinks = s.cfgNlinks ∧ t.cfgZsEn = s.cfgZsEn := by
  rw [hw]
  cases i <;> exact ⟨rfl, rfl, rfl, rfl, rfl, rfl, rfl⟩

theorem frame_of_footprint (h : isPseudo i = false) : t.frame = s.frame := by
  rw [hw]
  cases i with
  | pad | crc32 | crc8 | raw => cases h
  | _ => rfl

theorem pseudo_of_footprint (h : isPseudo i = true) : t = { s with frame := t.frame, draws := t.draws } := by
  cases i with
  | pad | crc32 | crc8 | raw => exact hw
  | _ => cases h

end

/-! ### What an instruction can do -/

/-- What instruction `i` answers with from `s`, said once: it takes a structural error of its own number and
destination, and no more than `LOG` bits, free values and, for a stream operation, the stream port have changed before;
or it completes and has written its footprint alone. Blocked by a pending fault it writes nothing of that. -/
inductive Effect (i : Instr) (s t : State) : Prop
  | raised (block : isPseudo i = false) (c : Acc) (pos : Nat) (eof : Bool) (e : Raise)
      (port : destOf i ≠ .strm → pos = s.strmPos ∧ eof = s.strmEof) (log : Log.SetsOnly (logBitsOf i) s.log c.log)
      (eq : t = abort (destOf i) (faultNumber i) e { s.withAcc c with strmPos := pos, strmEof := eof })
  | completed (fault : Idle s → Idle t) (wrote : t = footprint i t s) (cursor : movesCursor i = false → t.p = s.p)
      (log : i ≠ .clrLog → Log.SetsOnly (logBitsOf i) s.log t.log)

theorem footprint_self (i : Instr) (s : State) : footprint i s s = s := by
  cases i <;> rfl

theorem Effect.blocked (i : Instr) (s : State) : Effect i s s :=
  .completed id (footprint_self i s).symm (fun _ => rfl) fun _ => .refl _ _

theorem Effect.of_abort {i : Instr} {s : State} (block : isPseudo i = false) {c : Acc}
    (log : Log.SetsOnly (logBitsOf i) s.log c.log) (e : Raise) :
    Effect i s (abort (destOf i) (faultNumber i) e (s.withAcc c)) :=
  .raised block c s.strmPos s.strmEof e (fun _ => ⟨rfl, rfl⟩) log rfl

theorem Effect.abort {i : Instr} (block : isPseudo i = false) (s : State) (e : Raise) :
    Effect i s (abort (destOf i) (faultNumber i) e s) :=
  .of_abort (c := s.acc) block (.refl _ _) e

theorem Effect.unfinished {i : Instr} (block : isPseudo i = false) (s : State) :
    Unfinished (Effect i s) (destOf i) (faultNumber i) s :=
  ⟨fun _ => .blocked i s, fun _ => .abort block s⟩

/-- A decode that ran: its record stored, or its structural error taken. It may have run at `u`, the cursor of `s` moved
(`MS.HDR`), which its error leaves no trace of. -/
theorem Effect.finish {i : Instr} {α : Type} {s u : State} {r : Run α} {put : α → State → State}
    (block : isPseudo i = false) (kept : s.log.GrowsTo r.accOf.log)
    (within : r.accOf.log.keptIn (s.log.join (logBitsOf i)) = true)
    (hu : ∀ c e, Machine.abort (destOf i) (faultNumber i) e (u.withAcc c)
      = Machine.abort (destOf i) (faultNumber i) e (s.withAcc c))
    (hput : ∀ a c, Log.SetsOnly (logBitsOf i) s.log c.log → Effect i s (put a (u.withAcc c))) :
    Ensures (Effect i s) (finish (destOf i) (faultNumber i) u r put) := by
  have hlog : Log.SetsOnly (logBitsOf i) s.log r.accOf.log := ⟨kept.1, within⟩
  refine .finish (fun a c hr => hput a c ?_) fun e c hr => ?_
  · rwa [hr] at hlog
  · rw [hu]
    refine .of_abort block ?_ e
    rwa [hr] at hlog

/-! ### Stream operations -/

theorem footprint_of_strm {i : Instr} (hd : destOf i = .strm) (t s : State) :
    footprint i t s = Dest.strm.taken t { s with p := t.p, log := t.log, draws := t.draws } := by
  cases i with
  | scanRoc | scanMs | markRocStart0 | markRocStart1 | markRocEnd0 | markRocEnd1 | markMsStart | markMsEnd | msPrefix =>
    rfl
  | _ => cases hd

theorem isPseudo_of_strm {i : Instr} (hd : destOf i = .strm) : isPseudo i = false := by
  cases i with
  | pad | crc32 | crc8 | raw => cases hd
  | _ => rfl

theorem movesCursor_of_strm {i : Instr} (hd : destOf i = .strm) : movesCursor i = true := by
  cases i with
  | scanRoc | scanMs | markRocStart0 | markRocStart1 | markRocEnd0 | markRocEnd1 | markMsStart | markMsEnd | msPrefix =>
    rfl
  | _ => cases hd

/-- A stream operation that completes has written its destination and the cursor. -/
theorem Effect.completed_of_strm {i : Instr} {s t : State} (hd : destOf i = .strm) (hf : t.fault = s.fault)
    (hl : t.log = s.log) (hw : t = Dest.strm.taken t { s with p := t.p, log := t.log, draws := t.draws }) :
    Effect i s t :=
  .completed hf.trans (hw.trans (footprint_of_strm hd t s).symm)
    (fun hc => by rw [movesCursor_of_strm hd] at hc; cases hc) fun _ => hl ▸ .refl _ _

theorem Effect.of_scanOutcome {i : Instr} {n : Nat} {s t : State} (hd : destOf i = .strm)
    (h : ScanOutcome (faultNumber i) (consumeWords n s) t) : Effect i s t := by
  have port_eq {u : State} (hp : PortMoved (consumeWords n s) u) :
      ∃ pos eof, u = { s with strmPos := pos, strmEof := eof } := ⟨_, _, hp.same⟩
  cases h with
  | ended u port eq =>
    obtain ⟨pos, eof, rfl⟩ := port_eq port
    exact eq ▸ .completed_of_strm hd rfl rfl rfl
  | raised u port e eq =>
    obtain ⟨pos, eof, rfl⟩ := port_eq port
    exact .raised (isPseudo_of_strm hd) s.acc pos eof e (fun h => absurd hd h) (.refl _ _) (by rw [eq, hd]; rfl)
  | opened u port ws fits eq =>
    obtain ⟨pos, eof, rfl⟩ := port_eq port
    exact eq ▸ .completed_of_strm hd rfl rfl rfl

theorem Effect.exec_stream {i : Instr} (s : State) (hd : destOf i = .strm) : Ensures (Effect i s) (exec i s) :=
  exec_stream_ensures hd (fun _ => .blocked _ s) fun _ _ => .of_scanOutcome hd

/-! ### Every instruction -/

/-- Each arm completes within its footprint or raises, grouped by the shared operation it is built on. -/
theorem exec_effect (i : Instr) (s : State) : Ensures (Effect i s) (exec i s) := by
  unfold exec
  cases i with
  | sample | daqCm | trigSoft | econdHdr0 | erxHdr0 | erxHdr1 | ptSample =>
    refine .onWord (Effect.unfinished rfl s) fun _ _ => .next ?_
    exact .completed id rfl nofun fun _ => .refl _ _
  | daqHdr | econdHdr1 | econdTrl =>
    refine .onWord (Effect.unfinished rfl s) fun _ _ => .next ?_
    exact .completed id rfl nofun fun _ => .setHdrWarn rfl _ _
  | trigData =>
    refine .onWord (Effect.unfinished rfl s) fun _ _ => .next ?_
    exact .completed id rfl nofun fun _ => .setSyncWarn rfl _ _
  | zs0000 | zs0001 | zs0010 | zs0011 | fp01 | fp11 =>
    exact .recordAt (Effect.unfinished rfl s) fun _ =>
      .completed id rfl nofun fun _ => .setInvalidCode (b := false) nofun _
  | fp10 =>
    exact .recordAt (Effect.unfinished rfl s) fun _ =>
      .completed id rfl nofun fun _ => .setInvalidCode (fun _ => rfl) _
  | daqCrc | rocLen | rocLtab =>
    refine .onWord (Effect.unfinished rfl s) fun _ _ => .ite (fun _ => .next (Effect.abort rfl s _)) fun _ => .next ?_
    exact .completed id rfl nofun fun _ => .refl _ _
  | msHdr =>
    refine .onWord (Effect.unfinished rfl s) fun _ _ => .ite (fun _ => .next (Effect.abort rfl s _)) fun _ => ?_
    exact Effect.finish rfl (msGroup_log _ _ _ _ _ _ _ _ _ s.acc)
      (msGroup_log_within (Log.join_invalidCode rfl _) (Log.join_hdrWarn rfl _) _ _ _ _ _ _ _ _ _
        (Log.keptIn_join _ _))
      (fun _ _ => rfl) fun m c hl => .completed id rfl nofun fun _ => hl
  | markRocStart0 | markRocStart1 | markRocEnd0 | markRocEnd1 | markMsStart | markMsEnd | msPrefix | scanRoc | scanMs =>
    exact Effect.exec_stream s rfl
  | crc32 | crc8 =>
    refine .ite (fun _ => .next ?_) fun _ => .next ?_
    all_goals exact .completed id rfl (fun _ => rfl) fun _ => .refl _ _
  | pad | raw | nop => exact .next (.completed id rfl (fun _ => rfl) fun _ => .refl _ _)
  | clrFault => exact .next (.completed (fun _ => rfl) rfl (fun _ => rfl) fun _ => .refl _ _)
  | clrLog => exact .next (.completed id rfl (fun _ => rfl) fun h => absurd rfl h)
  | alignWord =>
    exact .whenIdle (fun _ => .blocked _ s) fun _ => .next (.completed id rfl nofun fun _ => .refl _ _)
  | atEnd | sampleDec | sampleEnc | crc8U64 =>
    exact .whenIdle (fun _ => .blocked _ s) fun _ => .next (.completed id rfl (fun _ => rfl) fun _ => .refl _ _)
  | seekWord | seekByte | setSpan =>
    refine .whenIdle (fun _ => .blocked _ s) fun _ => .ite (fun _ => .next (Effect.abort rfl s _)) fun _ => .next ?_
    exact .completed id rfl nofun fun _ => .refl _ _
  | trigCsum | trigLsum =>
    refine .sumOp (Effect.unfinished rfl s) fun _ v => ?_
    exact .completed id rfl (fun _ => rfl) fun _ => .refl _ _
  | rdBits =>
    refine .readArgBits (Effect.unfinished rfl s) fun _ _ v => ?_
    exact .completed id rfl nofun fun _ => .refl _ _
  | peekBits =>
    refine .readArgBits (Effect.unfinished rfl s) fun _ _ v => ?_
    exact .completed id rfl (fun _ => rfl) fun _ => .refl _ _
  | crc32Span =>
    refine .onSpan (Effect.unfinished rfl s) fun _ => .next ?_
    exact .completed id rfl (fun _ => rfl) fun _ => .refl _ _
  | daqFrom =>
    refine .onSpan (Effect.unfinished rfl s) fun _ => ?_
    exact Effect.finish rfl (daqFrom_log _ _ s.acc)
      (daqFrom_log_within (Log.join_hdrWarn rfl _) _ _ (Log.keptIn_join _ _))
      (fun _ _ => rfl) fun d c hl => .completed id rfl (fun _ => rfl) fun _ => hl
  | trigFrom =>
    refine .onSpan (Effect.unfinished rfl s) fun _ => ?_
    exact Effect.finish rfl (trigFrom_log _ _ s.acc)
      (trigFrom_log_within (Log.join_syncWarn rfl _) _ _ (Log.keptIn_join _ _))
      (fun _ _ => rfl) fun d c hl => .completed id rfl (fun _ => rfl) fun _ => hl
  | erxUnpack =>
    refine .onSpan (Effect.unfinished rfl s) fun _ => ?_
    exact Effect.finish rfl (unpackSubpacket_log _ _ _ s.acc)
      (unpackSubpacket_log_within (Log.join_invalidCode rfl _) _ _ _ (Log.keptIn_join _ _))
      (fun _ _ => rfl) fun d c hl => .completed id rfl nofun fun _ => hl
  | econdFrom =>
    refine .onSpan (Effect.unfinished rfl s) fun _ => ?_
    exact Effect.finish rfl (econdFrom_log _ _ _ s.acc)
      (econdFrom_log_within (Log.join_invalidCode rfl _) (Log.join_hdrWarn rfl _) _ _ _ (Log.keptIn_join _ _))
      (fun _ _ => rfl) fun d c hl => .completed id rfl (fun _ => rfl) fun _ => hl
  | msFrom =>
    refine .onSpan (Effect.unfinished rfl s) fun _ => ?_
    exact Effect.finish rfl (msLoop_log _ _ _ _ _ _ s.acc)
      (msLoop_log_within (Log.join_invalidCode rfl _) (Log.join_hdrWarn rfl _) _ _ _ _ _ _ (Log.keptIn_join _ _))
      (fun _ _ => rfl) fun d c hl => .completed id rfl (fun _ => rfl) fun _ => hl
  | rocFrom =>
    refine .onSpan (Effect.unfinished rfl s) fun _ => ?_
    exact Effect.finish rfl (rocFrom_log _ _ s.acc)
      (rocFrom_log_within (Log.join_hdrWarn rfl _) _ _ (Log.keptIn_join _ _))
      (fun _ _ => rfl) fun d c hl => .completed id rfl (fun _ => rfl) fun _ => hl
  | fmtStart =>
    refine .whenIdle (fun _ => .blocked _ s) fun _ => .finishFmt (fun f _ => ?_) (Effect.abort rfl s)
    exact .completed id rfl (fun _ => rfl) fun _ => .refl _ _
  | fmtAdd =>
    refine .onSpan (Effect.unfinished rfl s) fun _ => .ite (fun _ => .next (Effect.abort rfl s _)) fun _ =>
      .ite (fun _ => .next (Effect.abort rfl s _)) fun _ => .ite (fun _ => .next (Effect.abort rfl s _)) fun _ =>
      .finishFmt (fun f _ => ?_) (Effect.abort rfl s)
    exact .completed id rfl (fun _ => rfl) fun _ => .refl _ _
  | fmtFinish =>
    refine .whenIdle (fun _ => .blocked _ s) fun _ => .ite (fun _ => .next (Effect.abort rfl s _)) fun _ =>
      .finishFmt (fun f _ => ?_) (Effect.abort rfl s)
    exact .completed id rfl (fun _ => rfl) fun _ => .refl _ _

/-! ### What a fault leaves -/

theorem abort_faultFrame (dst : Dest) (op : BitVec 6) (e : Raise) (u : State) :
    FaultFrame dst u (abort dst op e u) where
  samp := abort_samp dst op e u
  daq h := by
    cases dst with
    | daq => exact absurd rfl h
    | _ => rfl
  trig h := by
    cases dst with
    | trig => exact absurd rfl h
    | _ => rfl
  roc h := by
    cases dst with
    | roc => exact absurd rfl h
    | _ => rfl
  erx h := by
    cases dst with
    | erx => exact absurd rfl h
    | _ => exact ⟨rfl, rfl⟩
  econd h := by
    cases dst with
    | econd => exact absurd rfl h
    | _ => rfl
  ms h := by
    cases dst with
    | ms => exact absurd rfl h
    | _ => rfl
  res hsum hbits hstrm := by
    cases dst with
    | res => exact absurd rfl hsum
    | resOnly => exact absurd rfl hbits
    | strm => exact absurd rfl hstrm
    | _ => rfl
  crc32 h := by
    cases dst with
    | crcr => exact absurd rfl h
    | _ => rfl
  crc8 := abort_crc8 dst op e u
  formatter h := by
    cases dst with
    | fmt => exact absurd rfl h
    | _ => exact ⟨rfl, rfl, rfl, rfl⟩
  formatterCloses h := by
    cases h
    rfl
  nlinks := abort_fmtNlinks dst op e u
  input h := by
    cases dst with
    | strm => exact absurd rfl h
    | _ => exact ⟨rfl, rfl, rfl, rfl, rfl, rfl⟩
  streamClears h := by
    cases h
    exact ⟨rfl, rfl, rfl, rfl⟩
  cursor h := by
    obtain rfl | rfl := h <;> rfl
  registers :=
    ⟨abort_cmd dst op e u, abort_arg0 dst op e u, abort_arg1 dst op e u, abort_arg2 dst op e u, abort_arg3 dst op e u,
      abort_cfgNlinks dst op e u, abort_cfgZsEn dst op e u⟩
  environment :=
    ⟨abort_params dst op e u, abort_strm dst op e u, abort_script dst op e u, abort_frame dst op e u⟩

/-- What changed before a fault is none of what R303 keeps. -/
theorem raised_faultFrame {dst : Dest} {s : State} {pos : Nat} {eof : Bool}
    (port : dst ≠ .strm → pos = s.strmPos ∧ eof = s.strmEof) (op : BitVec 6) (e : Raise) (c : Acc) :
    FaultFrame dst s (abort dst op e { s.withAcc c with strmPos := pos, strmEof := eof }) :=
  { abort_faultFrame dst op e { s.withAcc c with strmPos := pos, strmEof := eof } with
    input := fun h => by
      obtain ⟨hibuf, hilen, hbase, hlen, hpos, heof⟩ :=
        (abort_faultFrame dst op e { s.withAcc c with strmPos := pos, strmEof := eof }).input h
      exact ⟨hibuf, hilen, hbase, hlen, hpos.trans (port h).1, heof.trans (port h).2⟩ }

/-- Settles O11: an instruction that ends with a new fault has raised it. -/
theorem errorLeavesRestUnchanged : Obligations.ErrorLeavesRestUnchanged := by
  intro i s t hs h ht
  cases exec_effect i s t h with
  | completed fault => exact absurd (fault hs) ht
  | raised block c pos eof e port log eq =>
    rw [eq]
    refine ⟨abort_faultOp _ _ _ _, raised_faultFrame port _ e c, ?_⟩
    rw [abort_log]
    exact log.kept

/-! ### The writers of each record, register and flag -/

/-- The clause of the `LOG` bits, with no instruction named for `code_err` or `bad_cmd`. -/
theorem Log.SetsOnly.ofInstr {i : Instr} {l l' : Log} (h : Log.SetsOnly (logBitsOf i) l l') :
    l.keptIn l' = true ∧ l'.keptIn (l.join (logBitsOf i)) = true ∧ l'.codeErr = l.codeErr ∧ l'.badCmd = l.badCmd :=
  ⟨h.kept, h.within, h.others (logBitsOf_others i).1 (logBitsOf_others i).2⟩

/-- Settles O12: an instruction that completes has written its footprint alone, and one that raises has left what R303
keeps. -/
theorem recordsAndFlagsHaveTheirWriters : Obligations.RecordsAndFlagsHaveTheirWriters := by
  intro i s t h
  cases exec_effect i s t h with
  | completed fault wrote cursor log =>
    obtain ⟨hcmd, h0, h1, h2, h3, hlinks, hzs⟩ := registers_of_footprint wrote
    exact ⟨daq_of_footprint wrote, trig_of_footprint wrote, roc_of_footprint wrote, erx_of_footprint wrote,
      econd_of_footprint wrote, ms_of_footprint wrote, fmt_of_footprint wrote, span_of_footprint wrote,
      fun hp _ => cursor hp, res_of_footprint wrote, input_of_footprint wrote, crc32_of_footprint wrote,
      crc8_of_footprint wrote, samp_of_footprint wrote, h0, h1, h2, h3, hcmd, hlinks, hzs, fun hi => (log hi).ofInstr,
      frame_of_footprint wrote, pseudo_of_footprint wrote⟩
  | raised block c pos eof e port log eq =>
    have hkept : FaultFrame (destOf i) s t := eq ▸ raised_faultFrame port _ e c
    have hfault : t.fault ≠ none := by
      rw [eq, abort_fault]
      exact Option.some_ne_none _
    have hlog : t.log = c.log := by rw [eq, abort_log]; rfl
    obtain ⟨hcmd, h0, h1, h2, h3, hlinks, hzs⟩ := hkept.registers
    refine ⟨hkept.daq, hkept.trig, hkept.roc, hkept.erx, hkept.econd, hkept.ms, fun hd => ?formatter, fun hd _ => ?span,
      fun _ hf => absurd hf hfault, fun hbits hsum hstrm _ => hkept.res hsum hbits hstrm, fun hd => ?input, hkept.crc32,
      fun _ => hkept.crc8, fun _ _ _ => hkept.samp, h0, h1, h2, h3, hcmd, hlinks, hzs, fun _ => hlog ▸ log.ofInstr,
      fun _ => hkept.environment.2.2.2, fun hp => absurd hp (block ▸ Bool.false_ne_true)⟩
    case formatter =>
      obtain ⟨hobuf, holen, hop, hopen⟩ := hkept.formatter hd
      exact ⟨hobuf, holen, hop, hopen, hkept.nlinks⟩
    case span =>
      obtain ⟨-, -, hbase, hlen, -, -⟩ := hkept.input hd
      exact ⟨hbase, hlen⟩
    case input =>
      obtain ⟨hibuf, hilen, -, -, hpos, heof⟩ := hkept.input hd
      exact ⟨hibuf, hilen, hpos, heof⟩

end Sys2Proof.Machine

/-! PROOFS of the family 20_memory, first part: the decoder and the encoder undo each other, because the fields of every
layout tile its word: what is put at a field reads back from it, and the fields read put together are the word. -/

namespace Sys2Proof

/-! ### Bit fields of a word -/

/-- A bit of a word is its field of one bit. -/
theorem ofBool_getLsbD {n : Nat} (w : BitVec n) (k : Nat) : BitVec.ofBool (w.getLsbD k) = w.extractLsb' k 1 := by
  apply BitVec.eq_of_getLsbD_eq
  intro j hj
  obtain rfl : j = 0 := by omega
  simp

/-- The first `n` bits of a word with zeros after them (R75). -/
theorem extract_append_zeros {n m : Nat} (h : n + m = 32) (w : Word) :
    (w.extractLsb' m n ++ 0#m).cast h = (w >>> m) <<< m := by
  apply BitVec.eq_of_getLsbD_eq
  intro k hk
  rw [BitVec.getLsbD_cast, BitVec.getLsbD_append, BitVec.getLsbD_shiftLeft, BitVec.getLsbD_ushiftRight,
    BitVec.getLsbD_extractLsb']
  by_cases hkm : k < m
  · simp [hkm]
  · simp [hkm, hk, show k - m < n by omega]

theorem extract_extract {n k l s m : Nat} (h : s + m ≤ l) (w : BitVec n) :
    (w.extractLsb' k l).extractLsb' s m = w.extractLsb' (k + s) m := by
  apply BitVec.eq_of_getLsbD_eq
  intro j hj
  simp only [BitVec.getLsbD_extractLsb', hj, show s + j < l by omega, decide_true, Bool.true_and, Nat.add_assoc]

theorem getLsbD_append_of_lt {n m k : Nat} (h : k < m) (v : BitVec n) (w : BitVec m) :
    (v ++ w).getLsbD k = w.getLsbD k := by
  rw [BitVec.getLsbD_append, if_pos h]

theorem getLsbD_append_of_le {n m k : Nat} (h : m ≤ k) (v : BitVec n) (w : BitVec m) :
    (v ++ w).getLsbD k = v.getLsbD (k - m) := by
  rw [BitVec.getLsbD_append, if_neg (Nat.not_lt.2 h)]

theorem getLsbD_ofBool_zero (b : Bool) : (BitVec.ofBool b).getLsbD 0 = b := by
  cases b <;> rfl

/-- A word with its last bits cleared has the same first bits. -/
theorem ushiftRight_clearLow (w : Word) (m : Nat) : w >>> m <<< m >>> m = w >>> m := by
  apply BitVec.eq_of_getLsbD_eq
  intro k _
  simp only [BitVec.getLsbD_ushiftRight, BitVec.getLsbD_shiftLeft, Nat.add_sub_cancel_left]
  by_cases hk : m + k < 32
  · simp [hk]
  · simp [hk, BitVec.getLsbD_of_ge w (m + k) (Nat.le_of_not_lt hk)]

/-! ### Bit ranges of `MS_LAYOUT` -/

namespace BitRange

theorem hasWidth_iff {r : BitRange} {n : Nat} : r.hasWidth n = true ↔ r.hi + 1 = r.lo + n ∧ r.hi < 32 := by
  simp [hasWidth]

theorem apart_iff {r q : BitRange} : r.apart q = true ↔ r.hi < q.lo ∨ q.hi < r.lo := by
  simp [apart]

theorem getLsbD_put {n k : Nat} (r : BitRange) (v : BitVec n) (hk : k < 32) :
    (r.put v).getLsbD k = (decide (r.lo ≤ k) && v.getLsbD (k - r.lo)) := by
  have hlow : k - r.lo < 32 := by omega
  simp only [put, BitVec.getLsbD_shiftLeft, BitVec.getLsbD_setWidth, hk, hlow, decide_true, Bool.true_and]
  by_cases h : r.lo ≤ k
  · simp [h, Nat.not_lt.2 h]
  · simp [h, Nat.lt_of_not_le h]

theorem getLsbD_get {r : BitRange} {n : Nat} (h : r.hasWidth n = true) (w : Word) (k : Nat) :
    (r.get w n).getLsbD k = (decide (k < n) && w.getLsbD (r.lo + k)) := by
  obtain ⟨hn, -⟩ := hasWidth_iff.1 h
  rw [get, show r.hi + 1 - r.lo = n by omega, BitVec.getLsbD_ofNat, Nat.testBit_mod_two_pow, Nat.testBit_shiftRight,
    BitVec.testBit_toNat, ← Bool.and_assoc, Bool.and_self]

theorem get_or {r : BitRange} {n : Nat} (h : r.hasWidth n = true) (v w : Word) :
    r.get (v ||| w) n = r.get v n ||| r.get w n := by
  apply BitVec.eq_of_getLsbD_eq
  intro k _
  simp only [BitVec.getLsbD_or, getLsbD_get h, Bool.and_or_distrib_left]

/-- A field reads back from its own range. -/
theorem get_put_same {r : BitRange} {n : Nat} (h : r.hasWidth n = true) (v : BitVec n) : r.get (r.put v) n = v := by
  obtain ⟨hn, hhi⟩ := hasWidth_iff.1 h
  apply BitVec.eq_of_getLsbD_eq
  intro k hk
  rw [getLsbD_get h, getLsbD_put r v (by omega)]
  simp [hk]

/-- A field is not seen from a range apart from its own. -/
theorem get_put_apart {r q : BitRange} {n m : Nat} (hr : r.hasWidth n = true) (hq : q.hasWidth m = true)
    (h : r.apart q = true) (v : BitVec m) : r.get (q.put v) n = 0#n := by
  obtain ⟨hn, hrhi⟩ := hasWidth_iff.1 hr
  obtain ⟨hm, hqhi⟩ := hasWidth_iff.1 hq
  have happart := apart_iff.1 h
  apply BitVec.eq_of_getLsbD_eq
  intro k hk
  rw [getLsbD_get hr, getLsbD_put q v (by omega)]
  by_cases hlo : q.lo ≤ r.lo + k
  · have hpast : m ≤ r.lo + k - q.lo := by omega
    simp [BitVec.getLsbD_of_ge _ _ hpast]
  · simp [hlo]

theorem apart_symm {r q : BitRange} (h : r.apart q = true) : q.apart r = true :=
  apart_iff.2 (apart_iff.1 h).symm

/-- What a range reads of a word, put back at the range, is the word's bits there. -/
theorem getLsbD_put_get {r : BitRange} {n k : Nat} (h : r.hasWidth n = true) (w : Word) (hk : k < 32) :
    (r.put (r.get w n)).getLsbD k = (decide (r.lo ≤ k ∧ k < r.lo + n) && w.getLsbD k) := by
  rw [getLsbD_put r _ hk, getLsbD_get h]
  by_cases hlo : r.lo ≤ k
  · simp [hlo, Nat.add_sub_cancel' hlo, Nat.sub_lt_iff_lt_add' hlo]
  · simp [hlo]

end BitRange

/-- A legal layout: four ranges of the widths of R20, each two of them apart. -/
structure MsLayout.Legal (l : MsLayout) : Prop where
  flag : l.flag.hasWidth 4 = true
  index : l.index.hasWidth 11 = true
  soi : l.soi.hasWidth 1 = true
  length : l.length.hasWidth 16 = true
  flag_index : l.flag.apart l.index = true
  flag_soi : l.flag.apart l.soi = true
  flag_length : l.flag.apart l.length = true
  index_soi : l.index.apart l.soi = true
  index_length : l.index.apart l.length = true
  soi_length : l.soi.apart l.length = true

theorem MsLayout.wf_iff {l : MsLayout} : l.wf = true ↔ l.Legal := by
  simp only [MsLayout.wf, Bool.and_eq_true]
  constructor
  · rintro ⟨⟨⟨⟨⟨⟨⟨⟨⟨h1, h2⟩, h3⟩, h4⟩, h5⟩, h6⟩, h7⟩, h8⟩, h9⟩, h10⟩
    exact ⟨h1, h2, h3, h4, h5, h6, h7, h8, h9, h10⟩
  · rintro ⟨h1, h2, h3, h4, h5, h6, h7, h8, h9, h10⟩
    exact ⟨⟨⟨⟨⟨⟨⟨⟨⟨h1, h2⟩, h3⟩, h4⟩, h5⟩, h6⟩, h7⟩, h8⟩, h9⟩, h10⟩

/-- The four ranges of a legal layout have 32 bits together, so every bit of a word lies in one of them. -/
theorem MsLayout.Legal.covers {l : MsLayout} (h : l.Legal) {k : Nat} (hk : k < 32) :
    (l.flag.lo ≤ k ∧ k < l.flag.lo + 4) ∨ (l.index.lo ≤ k ∧ k < l.index.lo + 11)
      ∨ (l.soi.lo ≤ k ∧ k < l.soi.lo + 1) ∨ (l.length.lo ≤ k ∧ k < l.length.lo + 16) := by
  obtain ⟨hf, hi, hs, hl, hfi, hfs, hfl, his, hil, hsl⟩ := h
  rw [BitRange.hasWidth_iff] at hf hi hs hl
  rw [BitRange.apart_iff] at hfi hfs hfl his hil hsl
  omega

/-- The per-sample header word of four fields (R84). -/
def MsLayout.header (l : MsLayout) (flag : BitVec 4) (index : BitVec 11) (soi : BitVec 1) (length : BitVec 16) : Word :=
  l.flag.put flag ||| l.index.put index ||| l.soi.put soi ||| l.length.put length

theorem encode_msHdr (p : Params) (flag : BitVec 4) (index : BitVec 11) (soi : Bool) (length : BitVec 16) :
    encode p (.msHdr flag index soi length)
      = .wire .msHdr (p.msLayout.header flag index (BitVec.ofBool soi) length) := rfl

namespace MsLayout.Legal

variable {l : MsLayout} (h : l.Legal) (flag : BitVec 4) (index : BitVec 11) (soi : BitVec 1) (length : BitVec 16)
include h

theorem get_flag_header : l.flag.get (l.header flag index soi length) 4 = flag := by
  simp only [header, BitRange.get_or h.flag, BitRange.get_put_same h.flag,
    BitRange.get_put_apart h.flag h.index h.flag_index, BitRange.get_put_apart h.flag h.soi h.flag_soi,
    BitRange.get_put_apart h.flag h.length h.flag_length, BitVec.or_zero]

theorem get_index_header : l.index.get (l.header flag index soi length) 11 = index := by
  simp only [header, BitRange.get_or h.index, BitRange.get_put_same h.index,
    BitRange.get_put_apart h.index h.flag (BitRange.apart_symm h.flag_index),
    BitRange.get_put_apart h.index h.soi h.index_soi, BitRange.get_put_apart h.index h.length h.index_length,
    BitVec.or_zero, BitVec.zero_or]

theorem get_soi_header : l.soi.get (l.header flag index soi length) 1 = soi := by
  simp only [header, BitRange.get_or h.soi, BitRange.get_put_same h.soi,
    BitRange.get_put_apart h.soi h.flag (BitRange.apart_symm h.flag_soi),
    BitRange.get_put_apart h.soi h.index (BitRange.apart_symm h.index_soi),
    BitRange.get_put_apart h.soi h.length h.soi_length, BitVec.or_zero, BitVec.zero_or]

theorem get_length_header : l.length.get (l.header flag index soi length) 16 = length := by
  simp only [header, BitRange.get_or h.length, BitRange.get_put_same h.length,
    BitRange.get_put_apart h.length h.flag (BitRange.apart_symm h.flag_length),
    BitRange.get_put_apart h.length h.index (BitRange.apart_symm h.index_length),
    BitRange.get_put_apart h.length h.soi (BitRange.apart_symm h.soi_length), BitVec.zero_or]

/-- A word is the header of the fields read from it: no bit is outside the four ranges. -/
theorem header_get (w : Word) :
    l.header (l.flag.get w 4) (l.index.get w 11) (l.soi.get w 1) (l.length.get w 16) = w := by
  apply BitVec.eq_of_getLsbD_eq
  intro k hk
  have hcovers := h.covers hk
  simp only [header, BitVec.getLsbD_or, BitRange.getLsbD_put_get h.flag w hk, BitRange.getLsbD_put_get h.index w hk,
    BitRange.getLsbD_put_get h.soi w hk, BitRange.getLsbD_put_get h.length w hk,
    ← Bool.and_or_distrib_right, ← Bool.decide_or, or_assoc, decide_eq_true hcovers, Bool.true_and]

end MsLayout.Legal

/-! ### Channel records -/

/-- The code that starts a record (R75, R181). -/
def RecClass.code : (k : RecClass) → BitVec k.codeBits
  | .zs0000 => 0b0000#4
  | .zs0001 => 0b0001#4
  | .zs0010 => 0b0010#4
  | .zs0011 => 0b0011#4
  | .fp01 => 0b01#2
  | .fp10 => 0b10#2
  | .fp11 => 0b11#2

/-- A record is classified by the code it starts with. -/
theorem classify_iff {c : BitVec 4} {k : RecClass} :
    classify c = k ↔ c.extractLsb' (4 - k.codeBits) k.codeBits = k.code := by
  revert c
  cases k <;> decide

/-- The same, for a word that starts with the record (R75). -/
theorem classify_word_iff {w : Word} {k : RecClass} :
    classify (w.extractLsb' 28 4) = k ↔ w.extractLsb' (32 - k.codeBits) k.codeBits = k.code := by
  rw [classify_iff]
  cases k <;> rw [extract_extract (by decide)] <;> rfl

section
variable {w : Word} (slot : Nat)

theorem decodeRecord_zs0000 (h : w.extractLsb' 28 4 = 0b0000#4) :
    decodeRecord slot w = .zs0000 slot (w.extractLsb' 18 10) (w.extractLsb' 8 10) := by
  simp only [decodeRecord, classify_word_iff (k := .zs0000).2 h]

theorem decodeRecord_zs0001 (h : w.extractLsb' 28 4 = 0b0001#4) :
    decodeRecord slot w = .zs0001 slot (w.extractLsb' 26 2) (w.extractLsb' 16 10) := by
  simp only [decodeRecord, classify_word_iff (k := .zs0001).2 h]

theorem decodeRecord_zs0010 (h : w.extractLsb' 28 4 = 0b0010#4) :
    decodeRecord slot w = .zs0010 slot (w.extractLsb' 18 10) (w.extractLsb' 8 10) := by
  simp only [decodeRecord, classify_word_iff (k := .zs0010).2 h]

theorem decodeRecord_zs0011 (h : w.extractLsb' 28 4 = 0b0011#4) :
    decodeRecord slot w = .zs0011 slot (w.extractLsb' 18 10) (w.extractLsb' 8 10) := by
  simp only [decodeRecord, classify_word_iff (k := .zs0011).2 h]

theorem decodeRecord_fp01 (h : w.extractLsb' 30 2 = 0b01#2) :
    decodeRecord slot w = .fp01 slot (w.extractLsb' 20 10) (w.extractLsb' 10 10) (w.extractLsb' 0 10) := by
  simp only [decodeRecord, classify_word_iff (k := .fp01).2 h]

theorem decodeRecord_fp10 (h : w.extractLsb' 30 2 = 0b10#2) :
    decodeRecord slot w = .fp10 slot (w.extractLsb' 20 10) (w.extractLsb' 10 10) (w.extractLsb' 0 10) := by
  simp only [decodeRecord, classify_word_iff (k := .fp10).2 h]

theorem decodeRecord_fp11 (h : w.extractLsb' 30 2 = 0b11#2) :
    decodeRecord slot w = .fp11 slot (w.extractLsb' 20 10) (w.extractLsb' 10 10) (w.extractLsb' 0 10) := by
  simp only [decodeRecord, classify_word_iff (k := .fp11).2 h]

end

theorem decodeRecord_wellFormed (slot : Nat) (w : Word) : (decodeRecord slot w).wellFormed = decide (slot < 37) := by
  unfold decodeRecord
  split <;> rfl

/-- The coded form of the record read from a word: the word's bits as far as the record goes, zeros after them (R75). -/
theorem encode_decodeRecord (p : Params) (slot : Nat) (w : Word) :
    encode p (decodeRecord slot w)
      = .wire (.channel slot) (w >>> (32 - (classify (w.extractLsb' 28 4)).recordBits)
          <<< (32 - (classify (w.extractLsb' 28 4)).recordBits)) := by
  cases h : classify (w.extractLsb' 28 4) with
  | zs0000 | zs0010 | zs0011 =>
    have hcode := classify_word_iff.1 h
    simp only [RecClass.code, RecClass.codeBits] at hcode
    simp only [decodeRecord, h, encode, ← hcode, BitVec.extractLsb'_append_extractLsb'_eq_extractLsb']
    exact congrArg _ (extract_append_zeros (n := 24) (m := 8) rfl w)
  | zs0001 =>
    have hcode := classify_word_iff.1 h
    simp only [RecClass.code, RecClass.codeBits] at hcode
    simp only [decodeRecord, h, encode, ← hcode, BitVec.extractLsb'_append_extractLsb'_eq_extractLsb']
    exact congrArg _ (extract_append_zeros (n := 16) (m := 16) rfl w)
  | fp01 | fp10 | fp11 =>
    have hcode := classify_word_iff.1 h
    simp only [RecClass.code, RecClass.codeBits, Nat.reduceSub] at hcode
    simp only [decodeRecord, h, encode, ← hcode, BitVec.extractLsb'_append_extractLsb'_eq_extractLsb',
      RecClass.recordBits, Nat.sub_self, BitVec.ushiftRight_zero, BitVec.shiftLeft_zero, BitVec.extractLsb'_eq_self]

/-! ### What the decoder reads from a place -/

theorem decodeMarker_inv {p : Params} {kind : ScanKind} {w : Word} {i : Instr} (h : decodeMarker kind w = .instr i) :
    i.wellFormed = true ∧ encode p i = .wire (.scan kind) w := by
  cases kind with
  | roc | ms =>
    simp only [decodeMarker] at h
    split_ifs at h <;> cases h <;> exact ⟨rfl, by subst w; rfl⟩

theorem decodeAt_wellFormed {p : Params} {pl : Place} {w : Word} {i : Instr} (h : decodeAt p pl w = .instr i) :
    i.wellFormed = true := by
  cases pl with
  | trigData | rocLtab | ptSample =>
    simp only [decodeAt] at h
    split at h <;> cases h
    exact decide_eq_true ‹_›
  | channel slot =>
    simp only [decodeAt] at h
    split at h <;> cases h
    rw [decodeRecord_wellFormed]
    exact decide_eq_true ‹_›
  | scan kind => exact (decodeMarker_inv (p := p) h).1
  | _ => cases h; rfl

/-- What is read from a whole word encodes back to it, for the fields read are side by side and fill it (R60). -/
theorem encode_of_decodeAt {p : Params} (hl : p.msLayout.Legal) {pl : Place} {w : Word} {i : Instr}
    (hpl : pl.wholeWord = true) (h : decodeAt p pl w = .instr i) : encode p i = .wire pl w := by
  cases pl with
  | sample | daqHdr | daqCm | econdHdr0 | econdHdr1 | erxHdr0 =>
    cases h
    simp only [encode, ofBool_getLsbD, BitVec.extractLsb'_append_extractLsb'_eq_extractLsb', BitVec.extractLsb'_eq_self]
  | trigData | rocLtab | ptSample =>
    simp only [decodeAt] at h
    split at h <;> cases h
    simp only [encode, BitVec.extractLsb'_append_extractLsb'_eq_extractLsb', BitVec.extractLsb'_eq_self]
  | msHdr =>
    cases h
    rw [encode_msHdr, ofBool_getLsbD, BitVec.extractLsb'_eq_self, hl.header_get]
  | scan kind => exact (decodeMarker_inv h).2
  | channel | pad | crc32 | crc8 | raw => cases hpl
  | daqCrc | trigSoft | rocLen | econdTrl | erxHdr1 | msPrefix => cases h; rfl

end Sys2Proof

namespace Sys2Proof.Machine

/-! ### Reads of a span -/

/-- Bit `k` of a read, counted from the first one read, which is the most significant (R101). -/
theorem getLsbD_bitRead (ws : List Word) (q n : Nat) {k : Nat} (hk : k < n) :
    (bitRead ws q n).getLsbD (n - 1 - k) = bitAt ws (q + k) := by
  induction n with
  | zero => omega
  | succ n ih =>
    rw [bitRead, BitVec.getLsbD_concat]
    by_cases hlast : k = n
    · subst hlast
      simp
    · rw [if_neg (by omega), show n + 1 - 1 - k - 1 = n - 1 - k by omega]
      exact ih (by omega)

/-- A read at the start of a word gives its first bits. -/
theorem bitRead_singleton (w : Word) {n : Nat} (hn : n ≤ 32) : bitRead [w] 0 n = w.extractLsb' (32 - n) n := by
  apply BitVec.eq_of_getLsbD_eq
  intro k hk
  have hbit := getLsbD_bitRead [w] 0 n (k := n - 1 - k) (by omega)
  rw [show n - 1 - (n - 1 - k) = k by omega] at hbit
  rw [hbit, BitVec.getLsbD_extractLsb', decide_eq_true hk, Bool.true_and, bitAt,
    show (0 + (n - 1 - k)) / 32 = 0 by omega, show 31 - (0 + (n - 1 - k)) % 32 = 32 - n + k by omega]
  rfl

/-- The length of the record at a bit position is that of the class its first four bits name (R75, R181). -/
theorem recordSpec_length (ws : List Word) (q : Nat) :
    (recordSpec ws q).1 = (classify (bitRead ws q 4)).recordBits := by
  have h0 : (bitRead ws q 4).getLsbD 3 = bitAt ws q := getLsbD_bitRead ws q 4 (k := 0) (by decide)
  have h1 : (bitRead ws q 4).getLsbD 2 = bitAt ws (q + 1) := getLsbD_bitRead ws q 4 (k := 1) (by decide)
  have h2 : (bitRead ws q 4).getLsbD 1 = bitAt ws (q + 2) := getLsbD_bitRead ws q 4 (k := 2) (by decide)
  have h3 : (bitRead ws q 4).getLsbD 0 = bitAt ws (q + 3) := getLsbD_bitRead ws q 4 (k := 3) (by decide)
  simp only [recordSpec, classify, h0, h1, h2, h3]
  split <;> simp only [*] <;> rfl

theorem recordSpec_length_singleton (w : Word) :
    (recordSpec [w] 0).1 = (classify (w.extractLsb' 28 4)).recordBits := by
  rw [recordSpec_length, bitRead_singleton w (by decide)]

/-! ### The decoder and the encoder -/

/-- Settles O1: by the form of the instruction's code. A layout of several fields reads each field back from its place,
the position of R47 being one that its frame has; a channel record starts with the code of its class; the ranges of a
legal `MS_LAYOUT` are apart. The code of every other instruction has one field or none. -/
theorem decodeOfEncode : Obligations.DecodeOfEncode := by
  intro p i hl hw
  cases i with
  | sample | daqHdr | daqCm | econdHdr0 | econdHdr1 | erxHdr0 =>
    simp only [decode, encode, decodeAt, BitVec.extractLsb'_append_eq_of_add_le, BitVec.extractLsb'_append_eq_of_le,
      BitVec.extractLsb'_eq_self, getLsbD_append_of_lt, getLsbD_append_of_le, getLsbD_ofBool_zero, Nat.reduceLeDiff,
      Nat.reduceSub, Nat.reduceLT, Nat.le_refl]
  | trigData | rocLtab | ptSample =>
    simp only [Instr.wellFormed, decide_eq_true_eq] at hw
    simp only [decode, encode, decodeAt, if_pos hw, BitVec.extractLsb'_append_eq_of_add_le,
      BitVec.extractLsb'_append_eq_of_le, BitVec.extractLsb'_eq_self, Nat.reduceLeDiff, Nat.reduceSub, Nat.le_refl]
  | zs0000 | zs0001 | zs0010 | zs0011 | fp01 | fp10 | fp11 =>
    simp only [Instr.wellFormed, decide_eq_true_eq] at hw
    simp only [decode, encode, decodeAt, if_pos hw, decodeRecord_zs0000, decodeRecord_zs0001, decodeRecord_zs0010,
      decodeRecord_zs0011, decodeRecord_fp01, decodeRecord_fp10, decodeRecord_fp11,
      BitVec.extractLsb'_append_eq_of_add_le, BitVec.extractLsb'_append_eq_of_le, BitVec.extractLsb'_eq_self,
      Nat.reduceLeDiff, Nat.reduceSub, Nat.le_refl]
  | msHdr flag index soi length =>
    have hlegal := MsLayout.wf_iff.1 hl
    simp only [encode_msHdr, decode, decodeAt, hlegal.get_flag_header, hlegal.get_index_header, hlegal.get_soi_header,
      hlegal.get_length_header, getLsbD_ofBool_zero]
  | _ => rfl

/-- Settles O2: what is read from a place has a position its frame has, and its fields put together are the word, or the
word as far as the channel record goes. -/
theorem encodeOfDecode : Obligations.EncodeOfDecode := by
  intro p pl w i hl h
  refine ⟨decodeAt_wellFormed h, fun hpl => encode_of_decodeAt (MsLayout.wf_iff.1 hl) hpl h, ?channel⟩
  rintro slot rfl
  simp only [decode, decodeAt] at h
  split at h <;> cases h
  rw [recordSpec_length_singleton]
  refine ⟨_, encode_decodeRecord p slot w, ushiftRight_clearLow w _, ?_⟩
  rw [← BitVec.shiftLeft_add, BitVec.shiftLeft_eq_zero (by omega)]

end Sys2Proof.Machine

/-! PROOFS of the family 20_memory, second part: what a walk fetches, and that a walk in the stream is the scan that meets
the words there. -/

namespace Sys2Proof.Machine

/-! ### The bits at the cursor -/

/-- Bit `q` of a buffer's word, counted from the most significant, is a bit of one of its four bytes (R42). -/
theorem Memory.getLsbD_readWord (m : Memory) (i : Nat) {q : Nat} (hq : q < 32) :
    (Memory.readWord m i).getLsbD (31 - q) = (Memory.readByte m (4 * i + q / 8)).getLsbD (7 - q % 8) := by
  simp only [Memory.readWord, BitVec.getLsbD_append]
  obtain h | h | h | h : q / 8 = 0 ∨ q / 8 = 1 ∨ q / 8 = 2 ∨ q / 8 = 3 := by omega
  · rw [if_neg (by omega), if_neg (by omega), if_neg (by omega), h, show 31 - q - 8 - 8 - 8 = 7 - q % 8 by omega,
      Nat.add_zero]
  · rw [if_neg (by omega), if_neg (by omega), if_pos (by omega), h, show 31 - q - 8 - 8 = 7 - q % 8 by omega]
  · rw [if_neg (by omega), if_pos (by omega), h, show 31 - q - 8 = 7 - q % 8 by omega]
  · rw [if_pos (by omega), h, show 31 - q = 7 - q % 8 by omega]

/-- The bit string of the span's words is the span read byte by byte (R41, R42, R100). -/
theorem bitAt_spanWords {s : State} {q : Nat} (hq : q < 32 * s.spanLen) : bitAt (spanWords s) q = spanBit s q := by
  rw [bitAt, spanWords, Memory.getD_words _ _ _ _ (by omega), Memory.getLsbD_readWord _ _ (by omega), spanBit]
  congr 2 <;> omega

theorem fetchWire_atCursor {s : State} {pl : Place} (h : pl.atCursor = true) :
    fetchWire s pl = some (bitsAtCursor s) := by
  cases pl with
  | scan | msPrefix | pad | crc32 | crc8 | raw => cases h
  | _ => rfl

/-- The bits at the cursor are the span's from the cursor on, as far as the span goes (R101). -/
theorem getLsbD_bitsAtCursor {s : State} (h : Ready s) {k : Nat} (hk : k < 32) (hq : s.p + k < 32 * s.spanLen) :
    (bitsAtCursor s).getLsbD (31 - k) = spanBit s (s.p + k) := by
  rw [bitsAtCursor, if_neg (Nat.not_lt.2 h.2), ← bitAt_spanWords hq]
  exact getLsbD_bitRead _ _ 32 hk

/-! ### The first start marker ahead -/

theorem getElem?_searchWords {s : State} {j : Nat} (hj : j < s.strm.horizon s.strmPos) :
    (searchWords s)[j]? = s.strm.word (s.strmPos + j) :=
  Stream.getElem?_read _ _ hj

theorem getElem?_searchWords_eq {s : State} {j : Nat} {w : Word} (h : (searchWords s)[j]? = some w) :
    s.strm.word (s.strmPos + j) = some w := by
  have hlen := (List.getElem?_eq_some_iff.1 h).1
  have hread : (searchWords s).length ≤ s.strm.horizon s.strmPos := by
    rw [searchWords, Stream.length_read]
    split <;> omega
  rwa [getElem?_searchWords (by omega)] at h

/-- A search of `SCAN_MS` consumes the words up to and with the first start word there is (R286). -/
theorem findMsStart_of_first {s : State} {j : Nat} (h : MsStartAt s j) (hfirst : ∀ k, k < j → ¬ MsStartAt s k) :
    findMsStart 0 (searchWords s) = some (j + 1) := by
  obtain ⟨j', hle, hlt, hword, -⟩ := s.strm.within_horizon s.strmPos (j := j) (by rw [h]; nofun)
  have hj : ¬ j' < j := fun hj => hfirst j' hj (hword.trans h)
  obtain rfl : j' = j := by omega
  have hseen : (searchWords s)[j']? = some markMsStartWord := (getElem?_searchWords (by omega)).trans h
  cases hf : findMsStart 0 (searchWords s) with
  | none => exact absurd hseen (findMsStart_none hf j')
  | some used =>
    obtain ⟨i, rfl, hi, hbefore⟩ := findMsStart_some hf
    have hij : ¬ i < j' := fun hlt => hfirst i hlt (getElem?_searchWords_eq hi)
    have hji : ¬ j' < i := fun hlt => hbefore j' hlt hseen
    rw [show i = j' by omega, Nat.zero_add]

theorem findMsStart_of_none {s : State} (h : ∀ j, ¬ MsStartAt s j) : findMsStart 0 (searchWords s) = none := by
  cases hf : findMsStart 0 (searchWords s) with
  | none => rfl
  | some used =>
    obtain ⟨i, -, hi, -⟩ := findMsStart_some hf
    exact absurd (getElem?_searchWords_eq hi) (h i)

/-- A search of `SCAN_ROC` consumes the words up to and with the first start pair there is (R281, R282). -/
theorem findRocStart_of_first {s : State} {j : Nat} (h : RocStartAt s j) (hfirst : ∀ k, k < j → ¬ RocStartAt s k) :
    findRocStart none 0 (searchWords s) = some (j + 2) := by
  obtain ⟨h0, h1⟩ := h
  obtain ⟨j', hle, hlt, hword0, hword1⟩ := s.strm.within_horizon s.strmPos (j := j) (by rw [h0]; nofun)
  have hj : ¬ j' < j := fun hj => hfirst j' hj ⟨hword0.trans h0, hword1.trans h1⟩
  obtain rfl : j' = j := by omega
  have hseen : (searchWords s)[j']? = some markRocStart0Word ∧ (searchWords s)[j' + 1]? = some markRocStart1Word :=
    ⟨(getElem?_searchWords (by omega)).trans h0, (getElem?_searchWords (by omega)).trans h1⟩
  cases hf : findRocStart none 0 (searchWords s) with
  | none => exact absurd hseen (findRocStart_none hf j').1
  | some used =>
    obtain ⟨hprev, -⟩ | ⟨-, i, rfl, hi0, hi1, hbefore⟩ := findRocStart_some hf
    · cases hprev
    · have hij : ¬ i < j' := fun hlt => hfirst i hlt ⟨getElem?_searchWords_eq hi0, getElem?_searchWords_eq hi1⟩
      have hji : ¬ j' < i := fun hlt => hbefore j' hlt hseen
      rw [show i = j' by omega, Nat.zero_add]

/-- The length word ahead is the one behind the first start word (R287). -/
theorem prefixAhead_of_first {s : State} {j : Nat} (h : MsStartAt s j) (hfirst : ∀ k, k < j → ¬ MsStartAt s k) :
    prefixAhead s = s.strm.word (s.strmPos + j + 1) := by
  rw [prefixAhead, findMsStart_of_first h hfirst]
  rfl

/-- Settles O6: a place at the cursor, a place of a scan, and the length word with and without a start word ahead. -/
theorem fetchReadsSpanOrStream : Obligations.FetchReadsSpanOrStream := by
  intro s
  refine ⟨fun pl hpl hr => ⟨_, fetchWire_atCursor hpl, fun k hk hq => getLsbD_bitsAtCursor hr hk hq⟩, fun kind => rfl,
    fun j h hfirst => prefixAhead_of_first h hfirst, fun h => ?none⟩
  show prefixAhead s = none
  rw [prefixAhead, findMsStart_of_none h]

/-! ### A walk in the stream is a scan -/

/-- `SCAN_ROC` meets the next word of the stream first (R282). -/
theorem scanRocMeets_next {s : State} {w : Word} (h : strmNext s = some w) : scanRocMeets w s = execScanRoc s := by
  rw [execScanRoc, searchWords_eq_cons h, findRocStart, if_neg (by simp)]
  rfl

/-- `SCAN_MS` drops the next word of the stream if it is not its start word (R286). -/
theorem scanMsDrops_next {s : State} {w : Word} (h : strmNext s = some w) (hw : w ≠ markMsStartWord) :
    scanMsDrops s = execScanMs s := by
  rw [execScanMs, searchWords_eq_cons h, findMsStart, if_neg hw]
  rfl

/-- The search of `SCAN_MS` ends at the next word of the stream if that is its start word (R286). -/
theorem execMarkMsStart_next {s : State} (h : strmNext s = some markMsStartWord) :
    execMarkMsStart s = execScanMs s := by
  rw [execScanMs, searchWords_eq_cons h, findMsStart, if_pos rfl]
  rfl

/-- `SCAN_MS` reads the length word ahead as its own (R287). -/
theorem execMsPrefix_ahead {s : State} {n : Word} (h : prefixAhead s = some n) : execMsPrefix n s = execScanMs s := by
  unfold prefixAhead at h
  split at h
  · cases h
  · rename_i used hf
    rw [execMsPrefix, execScanMs, hf, afterMsSearch, msPrefixAndWindow, h]
    rfl

/-- A word met at a place of `SCAN_ROC`, marker or not, is consumed by the scan (R282, R285). -/
theorem runCoded_scanRoc (w : Word) (s : State) : runCoded (.wire (.scan .roc) w) s = scanRocMeets w s := by
  simp only [runCoded, decode, decodeAt, decodeMarker]
  split_ifs with h0 h1 h2 h3
  · exact h0 ▸ rfl
  · exact h1 ▸ rfl
  · exact h2 ▸ rfl
  · exact h3 ▸ rfl
  · rfl

/-- A word met at a place of `SCAN_MS` ends its search or is dropped (R286). -/
theorem runCoded_scanMs {s : State} {w : Word} (h : strmNext s = some w) :
    runCoded (.wire (.scan .ms) w) s = execScanMs s := by
  simp only [runCoded, decode, decodeAt, decodeMarker]
  by_cases hstart : w = markMsStartWord
  · subst hstart
    exact execMarkMsStart_next h
  · rw [if_neg hstart, ← scanMsDrops_next h hstart]
    split_ifs <;> rfl

/-! ### The step of a walk -/

section
variable {s : State} {pl : Place} {rest : List HostAction} (hs : s.script = .walk pl :: rest)
include hs

theorem step_walk_some {w : Word} (h : fetchWire { s with script := rest } pl = some w) :
    step s = runCoded (.wire pl w) { s with script := rest } := by
  rw [step_of_script_cons hs, issue, h]
  rfl

theorem step_walk_none (h : fetchWire { s with script := rest } pl = none) :
    step s = walkAtEnd pl { s with script := rest } := by
  rw [step_of_script_cons hs, issue, h]
  rfl

end

/-- What is fetched does not depend on what the host will do. -/
theorem fetchWire_script (s : State) (rest : List HostAction) (pl : Place) :
    fetchWire { s with script := rest } pl = fetchWire s pl := by
  cases pl <;> rfl

/-- Settles O5: the fetched bits are decoded and run. -/
theorem stepRunsElement : Obligations.StepRunsElement := by
  intro s pl w rest i hs hw hi
  rw [step_walk_some hs ((fetchWire_script s rest pl).trans hw)]
  exact runCoded_of_decode hi

theorem step_walk_scanRoc {s : State} {rest : List HostAction} (hs : s.script = .walk (.scan .roc) :: rest) :
    step s = execScanRoc { s with script := rest } := by
  cases hw : strmNext { s with script := rest } with
  | none => exact step_walk_none hs hw
  | some w => rw [step_walk_some hs hw, runCoded_scanRoc, scanRocMeets_next hw]

theorem step_walk_scanMs {s : State} {rest : List HostAction} (hs : s.script = .walk (.scan .ms) :: rest) :
    step s = execScanMs { s with script := rest } := by
  cases hw : strmNext { s with script := rest } with
  | none => exact step_walk_none hs hw
  | some w => rw [step_walk_some hs hw, runCoded_scanMs hw]

theorem step_walk_msPrefix {s : State} {rest : List HostAction} (hs : s.script = .walk .msPrefix :: rest) :
    step s = execScanMs { s with script := rest } := by
  cases hn : prefixAhead { s with script := rest } with
  | none => exact step_walk_none hs hn
  | some n => exact (step_walk_some hs hn).trans (execMsPrefix_ahead hn)

/-! ### The window a scan opens -/

theorem read_of_ahead {st : Stream} {i : Nat} {ws : List Word}
    (h : ∀ j w, ws[j]? = some w → st.word (i + j) = some w) : st.read i ws.length = ws := by
  induction ws generalizing i with
  | nil => rfl
  | cons w ws ih =>
    have hw : st.word i = some w := h 0 w rfl
    have htail : st.read (i + 1) ws.length = ws := ih fun j v hv => by
      rw [Nat.add_assoc, Nat.add_comm 1 j]
      exact h (j + 1) v hv
    simp only [List.length_cons, Stream.read, hw, htail]

/-- A window whose words are all ahead is opened (R283, R288). -/
theorem takeWindow_of_ahead (op : BitVec 6) (head : List Word) {body : List Word} {n : Nat} {s : State}
    (hlen : body.length = n) (h : StreamAhead s body) :
    takeWindow op head n s = .next (openWindow (head ++ body) (consumeWords n s)) := by
  subst hlen
  rw [takeWindow, read_of_ahead h, if_neg (Nat.lt_irrefl _)]

theorem consumeWords_consumeWords (m n : Nat) (s : State) :
    consumeWords n (consumeWords m s) = consumeWords (m + n) s := by
  simp only [consumeWords, Nat.add_assoc]

/-- Behind the start pair: the length word and as many words as it says are the window (R281, R283). -/
theorem rocWindow_of_ahead {s : State} {n : Word} {body : List Word} (hn : strmNext s = some n)
    (hbody : StreamAhead (consumeWords 1 s) body) (hpos : 1 ≤ n.toNat) (hmax : n.toNat ≤ s.params.maxWindow)
    (hlen : body.length + 1 = n.toNat) :
    rocWindow s = .next (openWindow (n :: body) (consumeWords n.toNat s)) := by
  have hrange : ¬ (n.toNat = 0 ∨ s.params.maxWindow < n.toNat) := by omega
  rw [rocWindow, hn]
  dsimp only
  rw [if_neg hrange, takeWindow_of_ahead _ _ (by omega) hbody, consumeWords_consumeWords, Nat.add_sub_cancel' hpos]
  rfl

/-- Behind the start word: as many words as the length word says are the window (R287, R288). -/
theorem msPrefixAndWindow_of_ahead {s : State} {n : Word} {body : List Word} (hn : strmNext s = some n)
    (hbody : StreamAhead (consumeWords 1 s) body) (hmax : n.toNat ≤ s.params.maxWindow)
    (hlen : body.length = n.toNat) :
    msPrefixAndWindow s = .next (openWindow body (consumeWords (1 + n.toNat) s)) := by
  rw [msPrefixAndWindow, hn]
  dsimp only
  rw [msWindow, consumeWords_params, if_neg (Nat.not_lt.2 hmax), takeWindow_of_ahead _ _ hlen hbody,
    consumeWords_consumeWords, List.nil_append]

/-- `SCAN_ROC` opens the window behind the first start pair (R281 to R283). -/
theorem execScanRoc_of_ahead {s : State} {j : Nat} {n : Word} {body : List Word} (hi : Idle s) (h : RocStartAt s j)
    (hfirst : ∀ k, k < j → ¬ RocStartAt s k) (hn : s.strm.word (s.strmPos + j + 2) = some n)
    (hbody : ∀ k w, body[k]? = some w → s.strm.word (s.strmPos + j + 3 + k) = some w) (hpos : 1 ≤ n.toNat)
    (hmax : n.toNat ≤ s.params.maxWindow) (hlen : body.length + 1 = n.toNat) :
    execScanRoc s = .next (openWindow (n :: body) (consumeWords (j + 2 + n.toNat) s)) := by
  have hwindow := rocWindow_of_ahead (s := consumeWords (j + 2) s) hn hbody hpos hmax hlen
  rw [execScanRoc, whenIdle_of_idle hi, findRocStart_of_first h hfirst, afterRocSearch, hwindow,
    consumeWords_consumeWords]

/-- `SCAN_MS` opens the window behind the first start word and its length word (R286 to R288). -/
theorem execScanMs_of_ahead {s : State} {j : Nat} {n : Word} {body : List Word} (hi : Idle s) (h : MsStartAt s j)
    (hfirst : ∀ k, k < j → ¬ MsStartAt s k) (hn : s.strm.word (s.strmPos + j + 1) = some n)
    (hbody : ∀ k w, body[k]? = some w → s.strm.word (s.strmPos + j + 2 + k) = some w)
    (hmax : n.toNat ≤ s.params.maxWindow) (hlen : body.length = n.toNat) :
    execScanMs s = .next (openWindow body (consumeWords (j + 2 + n.toNat) s)) := by
  have hwindow := msPrefixAndWindow_of_ahead (s := consumeWords (j + 1) s) hn hbody hmax hlen
  rw [execScanMs, whenIdle_of_idle hi, findMsStart_of_first h hfirst, afterMsSearch, hwindow,
    consumeWords_consumeWords, ← Nat.add_assoc]

/-- What an open window leaves of `IBUF`: its words, and every byte after them (R281, R286). -/
theorem opensWindow_of_exec {i : Instr} {s : State} {ws : List Word} {n : Nat} (hm : Memory.wf s.ibuf = true)
    (h : exec i s = .next (openWindow ws (consumeWords n s))) : OpensWindow i s ws n := by
  refine ⟨Memory.writeWords s.ibuf 0 ws, h, Memory.wf_writeWords hm 0 ws, fun k w hw => ?_, fun a ha =>
    Memory.readByte_writeWords_outside s.ibuf ws (.inr (by omega))⟩
  obtain ⟨hk, rfl⟩ := List.getElem?_eq_some_iff.1 hw
  simpa using Memory.readWord_writeWords hm 0 ws hk

/-- Words ahead, split where the start marker stands: those behind it. -/
theorem StreamAhead.drop {s : State} {pre ws : List Word} (h : StreamAhead s (pre ++ ws)) {j : Nat} {w : Word}
    (hw : ws[j]? = some w) : s.strm.word (s.strmPos + pre.length + j) = some w := by
  rw [Nat.add_assoc]
  exact h _ _ (by rwa [List.getElem?_append_right (Nat.le_add_right _ _), Nat.add_sub_cancel_left])

/-- A packet ahead of `SCAN_ROC`: an instruction that is the scan here opens the window on it (R281 to R283). -/
theorem opensWindow_roc {i : Instr} {s : State} {pre body : List Word} {n : Word} (he : exec i s = exec .scanRoc s)
    (hi : Idle s) (hm : Memory.wf s.ibuf = true)
    (h : StreamAhead s (pre ++ [0x11888811#32, 0xBEEF2025#32, n] ++ body))
    (hfirst : ∀ j, j < pre.length → ¬ RocStartAt s j) (hpos : 1 ≤ n.toNat) (hmax : n.toNat ≤ s.params.maxWindow)
    (hlen : body.length + 1 = n.toNat) : OpensWindow i s (n :: body) (pre.length + 2 + n.toNat) := by
  rw [List.append_assoc] at h
  have hstart : RocStartAt s pre.length := ⟨StreamAhead.drop h (j := 0) rfl, StreamAhead.drop h (j := 1) rfl⟩
  have hbody (k : Nat) (w : Word) (hw : body[k]? = some w) : s.strm.word (s.strmPos + pre.length + 3 + k) = some w := by
    rw [Nat.add_assoc _ 3 k, Nat.add_comm 3 k]
    exact StreamAhead.drop h hw
  exact opensWindow_of_exec hm
    (he.trans (execScanRoc_of_ahead hi hstart hfirst (StreamAhead.drop h (j := 2) rfl) hbody hpos hmax hlen))

/-- A packet ahead of `SCAN_MS`: an instruction that is the scan here opens the window on it (R286 to R288). -/
theorem opensWindow_ms {i : Instr} {s : State} {pre body : List Word} {n : Word} (he : exec i s = exec .scanMs s)
    (hi : Idle s) (hm : Memory.wf s.ibuf = true) (h : StreamAhead s (pre ++ [0xB33F2025#32, n] ++ body))
    (hfirst : ∀ j, j < pre.length → ¬ MsStartAt s j) (hmax : n.toNat ≤ s.params.maxWindow)
    (hlen : body.length = n.toNat) : OpensWindow i s body (pre.length + 2 + n.toNat) := by
  rw [List.append_assoc] at h
  have hbody (k : Nat) (w : Word) (hw : body[k]? = some w) : s.strm.word (s.strmPos + pre.length + 2 + k) = some w := by
    rw [Nat.add_assoc _ 2 k, Nat.add_comm 2 k]
    exact StreamAhead.drop h hw
  exact opensWindow_of_exec hm (he.trans (execScanMs_of_ahead hi (StreamAhead.drop h (j := 0) rfl) hfirst
    (StreamAhead.drop h (j := 1) rfl) hbody hmax hlen))

/-- A marker of `SCAN_ROC` that stands next in the stream is the scan (R282, R285). -/
theorem exec_rocMarker {s : State} {x : Instr × Word} (hx : x ∈ rocMarkers) (h : s.strm.word s.strmPos = some x.2) :
    exec x.1 s = exec .scanRoc s := by
  simp only [rocMarkers, List.mem_cons, List.not_mem_nil, or_false] at hx
  obtain rfl | rfl | rfl | rfl := hx <;> exact scanRocMeets_next h

/-- A marker of `SCAN_MS` that stands next in the stream is the scan (R285, R286). -/
theorem exec_msMarker {s : State} {x : Instr × Word} (hx : x ∈ msMarkers) (h : s.strm.word s.strmPos = some x.2) :
    exec x.1 s = exec .scanMs s := by
  simp only [msMarkers, List.mem_cons, List.not_mem_nil, or_false] at hx
  obtain rfl | rfl := hx
  · exact execMarkMsStart_next h
  · exact scanMsDrops_next h (by decide)

/-- Settles O56: the three walks are the scans as steps; a marker next in the stream, and a length word behind the first
start word, is the scan, which opens the window ahead. -/
theorem streamElementsRunTheScan : Obligations.StreamElementsRunTheScan := by
  intro s
  refine ⟨fun rest hs => step_walk_scanRoc hs, fun rest hs => step_walk_scanMs hs, fun rest hs => step_walk_msPrefix hs,
    fun x hx hw => ⟨exec_rocMarker hx hw, fun pre body n => opensWindow_roc (exec_rocMarker hx hw)⟩,
    fun x hx hw => ⟨exec_msMarker hx hw, fun pre body n => opensWindow_ms (exec_msMarker hx hw)⟩,
    fun j n h hfirst hn => ?lengthWord⟩
  have hscan : exec (.msPrefix n) s = exec .scanMs s := execMsPrefix_ahead ((prefixAhead_of_first h hfirst).trans hn)
  exact ⟨hscan, fun body hi hm hbody hmax hlen =>
    opensWindow_of_exec hm (hscan.trans (execScanMs_of_ahead hi h hfirst hn hbody hmax hlen))⟩

end Sys2Proof.Machine

/-! PROOFS of the family 30_encoding, first part: the single words walked at the cursor, each the update of its record
(log 3). -/

namespace Sys2Proof.Machine

/-! ### Structural errors -/

/-- A step that is the entry of R303 for the instruction's own destination and number takes that error. -/
theorem takesError_of_abort {i : Instr} {s : State} {e : Raise}
    (h : exec i s = .next (abort (destOf i) (faultNumber i) e s)) : TakesError i s e.kind e.info :=
  ⟨_, h, ⟨rfl, rfl, rfl⟩, abort_faultFrame _ _ _ s⟩

/-! ### The words of the span -/

/-- Part of a run of words of a buffer, cut at its end where the part reaches it. -/
theorem Memory.take_drop_words (m : Memory) (i : Nat) {n a l : Nat} (h : l ≤ n - a) :
    ((Memory.words m i n).drop a).take l = Memory.words m (i + a) l := by
  have hlen : (((Memory.words m i n).drop a).take l).length = l := by
    rw [List.length_take, List.length_drop, Memory.length_words, Nat.min_eq_left h]
  refine List.ext_getElem (hlen.trans (Memory.length_words m _ l).symm) fun k hk hk' => ?_
  rw [List.getElem_take, List.getElem_drop, Memory.getElem_words, Memory.getElem_words, Nat.add_assoc]

/-- Words `a` to `b - 1` of the span, read one by one. -/
theorem drop_take_spanWords {s : State} {a b : Nat} (h : b ≤ s.spanLen) :
    ((spanWords s).take b).drop a = (List.range (b - a)).map fun k => spanWord s (a + k) := by
  rw [List.drop_take, spanWords, Memory.take_drop_words _ _ (Nat.sub_le_sub_right h a)]
  simp only [Memory.words, spanWord, Nat.add_assoc]

/-! ### Sample words -/

section
variable (tc tp : Bool) (a m t : BitVec 10)

@[simp] theorem slotA_sampleWord : slotA (sampleWord tc tp a m t) = a := by
  simp only [slotA, sampleWord, BitVec.extractLsb'_append_eq_of_le, BitVec.extractLsb'_append_eq_of_add_le,
    BitVec.extractLsb'_eq_self, Nat.reduceLeDiff, Nat.reduceSub, Nat.le_refl]

@[simp] theorem slotM_sampleWord : slotM (sampleWord tc tp a m t) = m := by
  simp only [slotM, sampleWord, BitVec.extractLsb'_append_eq_of_le, BitVec.extractLsb'_append_eq_of_add_le,
    BitVec.extractLsb'_eq_self, Nat.reduceSub, Nat.le_refl]

@[simp] theorem slotT_sampleWord : slotT (sampleWord tc tp a m t) = t := by
  simp only [slotT, sampleWord, BitVec.extractLsb'_append_eq_of_add_le, BitVec.extractLsb'_eq_self, Nat.le_refl]

@[simp] theorem tc_sampleWord : (sampleWord tc tp a m t).getLsbD 31 = tc := by
  simp only [sampleWord, getLsbD_append_of_le, getLsbD_ofBool_zero, Nat.reduceLeDiff, Nat.reduceSub]

@[simp] theorem tp_sampleWord : (sampleWord tc tp a m t).getLsbD 30 = tp := by
  simp only [sampleWord, getLsbD_append_of_le, getLsbD_append_of_lt, getLsbD_ofBool_zero, Nat.reduceLeDiff,
    Nat.reduceSub, Nat.reduceLT]

/-- The decode of a word built from its fields, by the two mode bits (R121 to R125). -/
theorem decodeSample_sampleWord :
    decodeSample (sampleWord tc tp a m t)
      = { tc := tc, tp := tp, adcTm1 := if tc && !tp then -1 else (a.toNat : Int),
          adc := if tc && tp then -1 else (m.toNat : Int), tot := if tc && tp then (m.toNat : Int) else -1,
          toa := (t.toNat : Int), word := sampleWord tc tp a m t } := by
  simp only [decodeSample, tc_sampleWord, tp_sampleWord, slotA_sampleWord, slotM_sampleWord, slotT_sampleWord]
  cases tc <;> cases tp <;> rfl

end

/-! ### Trigger and single-ROC words -/

/-- A place that the vector has is written. -/
theorem setIfInBounds_of_lt {α : Type} {n i : Nat} (v : Vector α n) (h : i < n) (x : α) :
    v.setIfInBounds i x = v.set i x := by
  simp only [Vector.setIfInBounds, Vector.set, Array.setIfInBounds, Vector.size_toArray, h, dif_pos]

theorem syncBadOf_eq (pr : Params) (sync : BitVec 4) : syncBadOf pr sync = decide (sync ∉ pr.trigSyncSet) := by
  simp [syncBadOf]

/-- The sync nibble is the top of its data word (R66). -/
theorem sync_of_trigWord (sync : BitVec 4) (s0 s1 s2 s3 : BitVec 7) :
    (sync ++ s0 ++ s1 ++ s2 ++ s3).extractLsb' 28 4 = sync := by
  simp only [BitVec.extractLsb'_append_eq_of_le, BitVec.extractLsb'_eq_self, Nat.reduceLeDiff, Nat.reduceSub,
    Nat.le_refl]

/-- A data word that the frame has, stored with its flag (R160, R162). -/
theorem applyTrigData_of_lt (pr : Params) {iBx : Nat} (h : iBx < 4) (w : Word) (t : Trigf) :
    applyTrigData pr iBx w t
      = { t with
          data := t.data.set iBx w,
          syncBad := t.syncBad.set iBx (decide (w.extractLsb' 28 4 ∉ pr.trigSyncSet)) } := by
  simp only [applyTrigData, setIfInBounds_of_lt _ h, syncBadOf_eq]

/-- A table word that the packet has gives two link lengths, in the order of the parameter (R242). -/
theorem applyRocLtab_of_lt (o : LenTableOrder) {k : Nat} (h : k < 3) (hi lo : BitVec 16) (r : Roc) :
    applyRocLtab o k hi lo r
      = { r with
          linkLen :=
            if o = .upperFirst then (r.linkLen.set (2 * k) hi).set (2 * k + 1) lo
            else (r.linkLen.set (2 * k) lo).set (2 * k + 1) hi } := by
  have h0 : 2 * k < 6 := by omega
  have h1 : 2 * k + 1 < 6 := by omega
  cases o with
  | upperFirst => simp only [applyRocLtab, setIfInBounds_of_lt _ h0, setIfInBounds_of_lt _ h1, if_true]
  | lowerFirst => simp only [applyRocLtab, setIfInBounds_of_lt _ h0, setIfInBounds_of_lt _ h1, reduceCtorEq, if_false]

section
variable {s : State} (h : WordAhead s)
include h

theorem exec_sample_of_ahead (tc tp : Bool) (a m t : BitVec 10) :
    exec (.sample tc tp a m t) s = .next { s with p := s.p + 32, samp := decodeSample (sampleWord tc tp a m t) } := by
  rw [exec, execSample, onWord_of_ahead h]

theorem exec_trigSoft_of_ahead (soft : Word) :
    exec (.trigSoft soft) s = .next { s with p := s.p + 32, trig := { s.trig with softHeader := soft } } := by
  rw [exec, execTrigSoft, onWord_of_ahead h]

theorem exec_trigData_of_ahead (iBx : Nat) (sync : BitVec 4) (s0 s1 s2 s3 : BitVec 7) :
    exec (.trigData iBx sync s0 s1 s2 s3) s
      = .next
          { s with
            p := s.p + 32, trig := applyTrigData s.params iBx (sync ++ s0 ++ s1 ++ s2 ++ s3) s.trig,
            log := s.log.setSyncWarn (syncBadOf s.params sync) } := by
  rw [exec, execTrigData, onWord_of_ahead h]

/-- The length word must say the span's length (R241). -/
theorem exec_rocLen_of_ahead (total : Word) :
    exec (.rocLen total) s
      = if s.spanLen ≠ total.toNat then .next (abort .roc 0x1B#6 ⟨.badLength, s.spanLen⟩ s)
        else .next { s with p := s.p + 32, roc := { s.roc with totalLen := total } } := by
  rw [exec, execRocLen, onWord_of_ahead h, length_spanWords]

/-- A table word lies in the first four words of the packet (R242). -/
theorem exec_rocLtab_of_ahead (k : Nat) (hi lo : BitVec 16) :
    exec (.rocLtab k hi lo) s
      = if s.spanLen < 4 then .next (abort .roc 0x1B#6 ⟨.lengthError, s.spanLen⟩ s)
        else .next { s with p := s.p + 32, roc := applyRocLtab s.params.lenTableOrder k hi lo s.roc } := by
  rw [exec, execRocLtab, onWord_of_ahead h, length_spanWords]

end

/-- Settles O21: each word's step is its record's update; a position the frame has is one the record stores. -/
theorem wordElementsWriteRecords : Obligations.WordElementsWriteRecords := by
  intro s h
  refine ⟨fun tc tp a m t => ?sample, exec_trigSoft_of_ahead h, fun iBx hi sync s0 s1 s2 s3 => ?trigData,
    fun total => ⟨fun hl => ?rocLen, fun hl => ?rocLenBad⟩, fun k hk hi lo hl => ?rocLtab⟩
  case sample => rw [exec_sample_of_ahead h, decodeSample_sampleWord]
  case trigData =>
    rw [exec_trigData_of_ahead h, applyTrigData_of_lt s.params hi, sync_of_trigWord, syncBadOf_eq]
    rfl
  case rocLen => rw [exec_rocLen_of_ahead h, if_neg (not_not.2 hl.symm)]
  case rocLenBad =>
    exact takesError_of_abort (e := ⟨.badLength, s.spanLen⟩)
      ((exec_rocLen_of_ahead h total).trans (if_pos (Ne.symm hl)))
  case rocLtab => rw [exec_rocLtab_of_ahead h, if_neg (Nat.not_lt.2 hl), applyRocLtab_of_lt _ hk]

/-! ### DAQ link words -/

/-- The warning of a header word is that of the flags it sets (R135). -/
theorem daqWarn_headerFlags (o : DaqFlagOrder) (lead : BitVec 4) (f6 f5 f4 : Bool) (evt : BitVec 4) (crcFlag : Bool) :
    daqWarn lead evt
      = ((headerFlags o lead f6 f5 f4 evt crcFlag)[0] || (headerFlags o lead f6 f5 f4 evt crcFlag)[5]) := by
  cases o <;> rfl

theorem eventTypeBad_eq (evt : BitVec 4) : eventTypeBad evt = decide (evt ≠ 0b0010#4 ∧ evt ≠ 0b0101#4) := by
  rw [eventTypeBad, Bool.decide_and]

/-- The CRC of a whole frame runs over its words 0 to 38 (R143). -/
theorem daqCrcFlag_spanWords {s : State} (h : s.spanLen = 40) (crc : Word) :
    daqCrcFlag (spanWords s) crc = decide (crc32Of ((List.range 39).map fun k => spanWord s k) ≠ crc) := by
  have hwords : (spanWords s).take 39 = (List.range 39).map fun k => spanWord s k := by
    simpa using drop_take_spanWords (s := s) (a := 0) (b := 39) (by omega)
  rw [daqCrcFlag, hwords]

section
variable {s : State} (h : WordAhead s)
include h

theorem exec_daqHdr_of_ahead (lead : BitVec 4) (bx : BitVec 12) (event : BitVec 6) (orbit : BitVec 3)
    (f6 f5 f4 : Bool) (evt : BitVec 4) :
    exec (.daqHdr lead bx event orbit f6 f5 f4 evt) s
      = .next
          { s with
            p := s.p + 32, daq := applyDaqHdr s.params lead bx event orbit f6 f5 f4 evt s.daq,
            log := s.log.setHdrWarn (daqWarn lead evt) } := by
  rw [exec, execDaqHdr, onWord_of_ahead h]

theorem exec_daqCm_of_ahead (ignored : BitVec 12) (cm0 cm1 : BitVec 10) :
    exec (.daqCm ignored cm0 cm1) s
      = .next { s with p := s.p + 32, daq := applyDaqCm cm0 cm1 s.daq } := by
  rw [exec, execDaqCm, onWord_of_ahead h]

/-- The span of a CRC word is a whole frame (R136). -/
theorem exec_daqCrc_of_ahead (crc : Word) :
    exec (.daqCrc crc) s
      = if s.spanLen ≠ 40 then .next (abort .daq 0x14#6 ⟨.badLength, s.spanLen⟩ s)
        else .next { s with p := s.p + 32, daq := applyDaqCrc (spanWords s) crc s.daq } := by
  rw [exec, execDaqCrc, onWord_of_ahead h, length_spanWords]

end

/-- Settles O29: the header's flags by the flag order, the common modes, and the CRC word in and outside a frame of 40
words. -/
theorem daqElementsWriteRecord : Obligations.DaqElementsWriteRecord := by
  intro s h
  refine ⟨fun lead bx event orbit f6 f5 f4 evt => ?hdr, exec_daqCm_of_ahead h, fun crc hl => ?crc,
    fun crc hl => ?crcBad⟩
  case hdr =>
    refine ⟨applyDaqHdr s.params lead bx event orbit f6 f5 f4 evt s.daq, ?_, rfl, ?flags⟩
    · rw [exec_daqHdr_of_ahead h, daqWarn_headerFlags s.params.daqFlagOrder lead f6 f5 f4 evt s.daq.corruption[1]]
      rfl
    case flags =>
      rw [← eventTypeBad_eq]
      cases ho : s.params.daqFlagOrder <;> simp [applyDaqHdr, headerFlags, leadBad, ho]
  case crc => rw [exec_daqCrc_of_ahead h, if_neg (not_not.2 hl), applyDaqCrc, daqCrcFlag_spanWords hl]
  case crcBad =>
    exact takesError_of_abort (e := ⟨.badLength, s.spanLen⟩) ((exec_daqCrc_of_ahead h crc).trans (if_pos hl))

/-! ### Event packet words -/

/-- The trailer's check at word `off` of the span runs over the span's words from 2 up to it (R223). -/
theorem trailerCrcFlag_spanWords {s : State} {off : Nat} (h : off ≤ s.spanLen) (crc : Word) :
    trailerCrcFlag (spanWords s) off crc
      = decide (crc32Of ((List.range (off - 2)).map fun k => spanWord s (2 + k)) ≠ crc) := by
  rw [trailerCrcFlag, drop_take_spanWords h]

/-- Before the link loop the warning is the header's check alone: the trailer's has not run (R212, R219). -/
theorem econdWarn_applyEcondHdr1 (pr : Params) (n : Nat) (free0 free1 : Bool) (bx : BitVec 12) (l1a : BitVec 6)
    (orbit : BitVec 3) (subErr : Bool) (rr : BitVec 2) (crc : BitVec 8) (e : Econd) :
    econdWarn (applyEcondHdr1 pr n free0 free1 bx l1a orbit subErr rr crc e)
      = (applyEcondHdr1 pr n free0 free1 bx l1a orbit subErr rr crc e).corruption[2] :=
  Bool.or_false _

/-- The trailer's check is stored as `corruption[3]` and leaves `corruption[2]` (R223). -/
theorem econdWarn_applyEcondTrl (ws : List Word) (off : Nat) (crc : Word) (e : Econd) :
    econdWarn (applyEcondTrl ws off crc e) = (e.corruption[2] || trailerCrcFlag ws off crc) := by
  simp [econdWarn, applyEcondTrl]

section
variable {s : State} (h : WordAhead s)
include h

theorem exec_econdHdr0_of_ahead (marker length : BitVec 9) (passthrough expected : Bool) (ht ebo : BitVec 2)
    (m truncated : Bool) (hamming : BitVec 6) :
    exec (.econdHdr0 marker length passthrough expected ht ebo m truncated hamming) s
      = .next
          { s with
            p := s.p + 32,
            econd := applyEcondHdr0 marker length passthrough expected ht ebo m truncated hamming s.econd } := by
  rw [exec, execEcondHdr0, onWord_of_ahead h]

theorem exec_econdHdr1_of_ahead (bx : BitVec 12) (l1a : BitVec 6) (orbit : BitVec 3) (subErr : Bool) (rr : BitVec 2)
    (crc : BitVec 8) {e : Econd}
    (he : e = applyEcondHdr1 s.params (configuredLinks s) (Config.freeBit s.draws) (Config.freeBit (s.draws + 1)) bx l1a
      orbit subErr rr crc s.econd) :
    exec (.econdHdr1 bx l1a orbit subErr rr crc) s
      = .next
          { s with
            p := s.p + 32, econd := e, draws := s.draws + 2,
            log := s.log.setHdrWarn (e.truncated && econdWarn e) } := by
  rw [he, exec, execEcondHdr1, onWord_of_ahead h]

theorem exec_econdTrl_of_ahead (crc : Word) :
    exec (.econdTrl crc) s
      = .next
          { s with
            p := s.p + 32, econd := applyEcondTrl (spanWords s) (s.p / 32) crc s.econd,
            log := s.log.setHdrWarn (econdWarn (applyEcondTrl (spanWords s) (s.p / 32) crc s.econd)) } := by
  rw [exec, execEcondTrl, onWord_of_ahead h]

end

/-- Settles O40: the two header words and the trailer as their updates of the record; the word offset of the trailer
lies within the span, since its word is ahead. -/
theorem econdElementsWriteRecord : Obligations.EcondElementsWriteRecord := by
  intro s h
  refine ⟨exec_econdHdr0_of_ahead h, fun bx l1a orbit subErr rr crc => ?hdr1, fun crc => ?trailer⟩
  case hdr1 =>
    refine ⟨_, exec_econdHdr1_of_ahead h bx l1a orbit subErr rr crc rfl, ?_, rfl, rfl, rfl⟩
    rw [econdWarn_applyEcondHdr1]
    rfl
  case trailer =>
    have hoff : s.p / 32 ≤ s.spanLen := by
      obtain ⟨-, hword⟩ := h
      omega
    rw [exec_econdTrl_of_ahead h, econdWarn_applyEcondTrl, applyEcondTrl, trailerCrcFlag_spanWords hoff]
    rfl

/-! ### The multi-sample header word -/

/-- `ECOND_FROM` that runs to completion: the packet decoded, its record stored (R212). -/
theorem execEcondFrom_completes {s u : State} (hr : Ready s) (h : execEcondFrom s = .next u) (hu : u.fault = none) :
    ∃ e c, econdFrom s.params (configuredLinks s) (spanWords s) s.acc = .done e c
      ∧ u = { s.withAcc c with econd := e } := by
  rw [execEcondFrom, onSpan_of_ready hr] at h
  obtain ⟨e, c, hrun, rfl⟩ | ⟨e, c, -, rfl⟩ := finish_next h
  · exact ⟨e, c, hrun, rfl⟩
  · cases hu

/-- A group of the envelope whose packet lies in the span and decodes is the next sample (R231, R233). -/
theorem msGroup_of_econdFrom {pr : Params} {n : Nat} {ws : List Word} {off : Nat} {length : BitVec 16} {c c' : Acc}
    {e : Econd} (hfit : off + 1 + length.toNat ≤ ws.length)
    (he : econdFrom pr n ((ws.drop (off + 1)).take length.toNat) c = .done e c') (flag : BitVec 4)
    (iSample : BitVec 11) (soi : Bool) (m : Ms) :
    msGroup pr n ws off flag iSample soi length m c
      = .done
          { samples := m.samples ++ [⟨flag, iSample, soi, length, e⟩],
            iSoi := if soi = true ∧ m.iSoi = -1 then (m.samples.length : Int) else m.iSoi } c' := by
  rw [msGroup, if_neg (Nat.not_lt.2 hfit), he]
  simp only [Bool.and_eq_true, decide_eq_true_eq]

/-- The words of a part of the span are those of the span set to that part (R109, R110). -/
theorem spanWords_withSpan {s : State} {off len : Nat} (h : off + len ≤ s.spanLen) :
    spanWords (withSpan (s.spanBase + off) len s) = ((spanWords s).drop off).take len :=
  (Memory.take_drop_words s.ibuf s.spanBase (Nat.le_sub_of_add_le' h)).symm

theorem exec_msHdr_of_ahead {s : State} (h : WordAhead s) (hroom : s.ms.samples.length < s.params.maxSamples)
    {flag : BitVec 4} {iSample : BitVec 11} {soi : Bool} {length : BitVec 16} {m : Ms} {c : Acc}
    (hm : msGroup s.params (configuredLinks s) (spanWords s) (s.p / 32) flag iSample soi length s.ms s.acc
      = .done m c) :
    exec (.msHdr flag iSample soi length) s
      = .next { s.withAcc c with ms := m, p := 32 * (s.p / 32 + 1 + length.toNat) } := by
  rw [exec, execMsHdr, onWord_of_ahead h, if_neg (Nat.not_le.2 hroom), hm]
  rfl

/-- Settles O42: the packet behind the header word is the span that `ECOND_FROM` was run on, so its record and what it
leaves of `LOG` and of the free values are the group's. -/
theorem msHdrElementAddsSample : Obligations.MsHdrElementAddsSample := by
  intro s u flag iSample soi length h hword hroom hfit hrun hu
  have hready : Ready (withSpan (s.spanBase + s.p / 32 + 1) length.toNat s) := by
    obtain ⟨⟨hidle, hspan⟩, -⟩ := h
    refine ⟨hidle, ?_⟩
    simp only [withSpan]
    omega
  obtain ⟨e, c, he, rfl⟩ := execEcondFrom_completes hready hrun hu
  rw [Nat.add_assoc, spanWords_withSpan hfit] at he
  have hgroup := msGroup_of_econdFrom (ws := spanWords s) (by rwa [length_spanWords]) he flag iSample soi s.ms
  have hcursor : 32 * (s.p / 32 + 1 + length.toNat) = s.p + 32 + 32 * length.toNat := by omega
  rw [exec_msHdr_of_ahead h hroom hgroup, hcursor]
  rfl

end Sys2Proof.Machine

/-! PROOFS of the family 30_encoding, second part: the channel records walked at the cursor (log 3), and the example
words of the spec. -/

namespace Sys2Proof.Machine

/-! ### An element that the span cuts -/

section
variable {dst : Dest} {op : BitVec 6} {look code n : Nat} {s : State} {k : List Word → State → Result}

/-- Not even the bits looked at first are ahead: the error is at the cursor (R103, R191). -/
theorem onElement_of_look_short (h : Ready s) (hl : 32 * s.spanLen < s.p + look) :
    onElement dst op look code n s k = .next (abort dst op ⟨.lengthError, s.p⟩ s) := by
  rw [onElement, onSpan_of_ready h, if_pos hl]

/-- Those bits are ahead, the element is not: the error is after its code (R102, R191). -/
theorem onElement_of_rest_short (h : Ready s) (hl : s.p + look ≤ 32 * s.spanLen) (hn : 32 * s.spanLen < s.p + n) :
    onElement dst op look code n s k = .next (abort dst op ⟨.lengthError, s.p + code⟩ s) := by
  rw [onElement, onSpan_of_ready h, if_neg (Nat.not_lt.2 hl), if_pos hn]

end

/-! ### Channel records -/

theorem four_le_recordBits (k : RecClass) : 4 ≤ k.recordBits := by
  have h := classify_recordBits k
  omega

theorem Log.setInvalidCode_false (l : Log) : l.setInvalidCode false = l := by
  rw [Log.setInvalidCode, Bool.or_false]

theorem Log.setInvalidCode_true (l : Log) : l.setInvalidCode true = { l with invalidCode := true } := by
  rw [Log.setInvalidCode, Bool.or_true]

section
variable {k : RecClass} {s : State} (slot : Nat) (c : BitVec 4) (w : Word) (h : Ready s)
include h

/-- A record ahead fills its slot (R175, R182 to R188). -/
theorem recordAt_of_ahead (hn : s.p + k.recordBits ≤ 32 * s.spanLen) :
    recordAt k slot c w s
      = .next
          { s with
            p := s.p + k.recordBits, erx := storeSlot (storeCode s.erx slot c) slot w,
            log := s.log.setInvalidCode (recordInvalid k) } := by
  have hlook := four_le_recordBits k
  rw [recordAt, onElement_of_ahead h (by omega) hn]

/-- A record ahead of a class that is not the known invalid one leaves `LOG` alone (R192). -/
theorem recordAt_of_valid (hv : recordInvalid k = false) (hn : s.p + k.recordBits ≤ 32 * s.spanLen) :
    recordAt k slot c w s
      = .next { s with p := s.p + k.recordBits, erx := storeSlot (storeCode s.erx slot c) slot w } := by
  rw [recordAt_of_ahead slot c w h hn, hv, Log.setInvalidCode_false]

/-- A record ahead of the known invalid class is stored and logged (R187). -/
theorem recordAt_of_invalid (hv : recordInvalid k = true) (hn : s.p + k.recordBits ≤ 32 * s.spanLen) :
    recordAt k slot c w s
      = .next
          { s with
            p := s.p + k.recordBits, erx := storeSlot (storeCode s.erx slot c) slot w,
            log := { s.log with invalidCode := true } } := by
  rw [recordAt_of_ahead slot c w h hn, hv, Log.setInvalidCode_true]

end

/-- Both errors of a record that the span cuts, for the instruction that is that record (R191). -/
theorem record_takesError {i : Instr} {k : RecClass} {slot n code : Nat} {c : BitVec 4} {w : Word} {s : State}
    (h : Ready s) (hi : exec i s = recordAt k slot c w s) (hd : destOf i = .erx) (ho : faultNumber i = 0x18#6)
    (hn : k.recordBits = n) (hc : k.codeBits = code) :
    (32 * s.spanLen < s.p + 4 → TakesError i s .lengthError s.p)
      ∧ (s.p + 4 ≤ 32 * s.spanLen → 32 * s.spanLen < s.p + n → TakesError i s .lengthError (s.p + code)) := by
  subst hn hc
  refine ⟨fun hlook => takesError_of_abort (e := ⟨.lengthError, s.p⟩) ?_,
    fun hlook hrest => takesError_of_abort (e := ⟨.lengthError, s.p + k.codeBits⟩) ?_⟩
  · rw [hi, hd, ho, recordAt, onElement_of_look_short h hlook]
  · rw [hi, hd, ho, recordAt, onElement_of_rest_short h hlook hrest]

/-- Settles O35: each of the seven instructions is the record of its class at the cursor. -/
theorem recordElementsFillSlot : Obligations.RecordElementsFillSlot := by
  intro s slot a m o h into
  refine ⟨fun hn => ⟨?zs0000, ?zs0010, ?zs0011⟩, fun hn padBits => ?zs0001, fun hn => ⟨?fp01, ?fp10, ?fp11⟩,
    fun padBits x hx => ?errors⟩
  case zs0000 => exact recordAt_of_valid (k := .zs0000) slot _ _ h rfl hn
  case zs0010 => exact recordAt_of_valid (k := .zs0010) slot _ _ h rfl hn
  case zs0011 => exact recordAt_of_valid (k := .zs0011) slot _ _ h rfl hn
  case zs0001 => exact recordAt_of_valid (k := .zs0001) slot _ _ h rfl hn
  case fp01 => exact recordAt_of_valid (k := .fp01) slot _ _ h rfl hn
  case fp10 => exact recordAt_of_invalid (k := .fp10) slot _ _ h rfl hn
  case fp11 => exact recordAt_of_valid (k := .fp11) slot _ _ h rfl hn
  case errors =>
    simp only [List.mem_cons, List.not_mem_nil, or_false] at hx
    obtain rfl | rfl | rfl | rfl | rfl | rfl | rfl := hx
    · exact record_takesError (k := .zs0000) h rfl rfl rfl rfl rfl
    · exact record_takesError (k := .zs0001) h rfl rfl rfl rfl rfl
    · exact record_takesError (k := .zs0010) h rfl rfl rfl rfl rfl
    · exact record_takesError (k := .zs0011) h rfl rfl rfl rfl rfl
    · exact record_takesError (k := .fp01) h rfl rfl rfl rfl rfl
    · exact record_takesError (k := .fp10) h rfl rfl rfl rfl rfl
    · exact record_takesError (k := .fp11) h rfl rfl rfl rfl rfl

/-! ### The spec's example words -/

/-- The coded form of a well-formed instruction decodes to it, under the default layout (R84). -/
theorem decode_of_encode_default {i : Instr} {c : Coded} (hw : i.wellFormed = true)
    (he : encode Params.default i = c) : decode Params.default c = .instr i :=
  he ▸ decodeOfEncode Params.default i (by decide) hw

/-- Settles O3: each word is the coded form of the element the spec reads in it, at its place. -/
theorem specWordsDecode : Obligations.SpecWordsDecode := by
  refine ⟨?_, ?_, ?_, ?_, ?_, ?_, ?_, ?_, ?_, ?_, ?_, ?_, ?_⟩
  all_goals exact decode_of_encode_default rfl (by decide)

end Sys2Proof.Machine

/-! PROOFS of the family 30_encoding, third part: the write primitive bit by bit (R256), and the pseudo-elements written
with it (R89, log 17). -/

namespace Sys2Proof.Machine

/-! ### Bits of a buffer -/

/-- A bit of a buffer is a bit of the word it lies in (R42). -/
theorem bufBit_eq_readWord (m : Memory) (q : Nat) :
    bufBit m q = (Memory.readWord m (q / 32)).getLsbD (31 - q % 32) := by
  rw [Memory.getLsbD_readWord m (q / 32) (Nat.mod_lt q (by decide)), bufBit]
  congr 2 <;> omega

/-- A byte is its eight bits. -/
theorem readByte_eq_of_bufBit {m m' : Memory} {a : Nat}
    (h : ∀ k, k < 8 → bufBit m (8 * a + k) = bufBit m' (8 * a + k)) : Memory.readByte m a = Memory.readByte m' a := by
  apply BitVec.eq_of_getLsbD_eq
  intro j hj
  have hbit := h (7 - j) (by omega)
  rw [bufBit, bufBit, show (8 * a + (7 - j)) / 8 = a by omega, show 7 - (8 * a + (7 - j)) % 8 = j by omega] at hbit
  exact hbit

theorem bufBit_writeWord {m : Memory} (h : Memory.wf m = true) (i : Nat) (w : Word) (q : Nat) :
    bufBit (Memory.writeWord m i w) q = if q / 32 = i then w.getLsbD (31 - q % 32) else bufBit m q := by
  rw [bufBit_eq_readWord, bufBit_eq_readWord]
  split
  · rename_i hq
    rw [hq, Memory.readWord_writeWord_same h]
  · rw [Memory.readWord_writeWord_other m ‹_›]

/-! ### The write primitive -/

/-- Bit `j` of a word with bit `i` put to `b`. -/
theorem getLsbD_putBit (w : Word) (b : Bool) {i j : Nat} (hj : j < 32) :
    (if b then w ||| BitVec.ofNat 32 (2 ^ i) else w &&& ~~~BitVec.ofNat 32 (2 ^ i)).getLsbD j
      = if j = i then b else w.getLsbD j := by
  have hmask : (BitVec.ofNat 32 (2 ^ i)).getLsbD j = decide (j = i) := by
    rw [BitVec.getLsbD_ofNat, Nat.testBit_two_pow, decide_eq_true hj, Bool.true_and, decide_eq_decide, eq_comm]
  cases b with
  | true =>
    rw [if_pos rfl, BitVec.getLsbD_or, hmask]
    by_cases hij : j = i <;> simp [hij]
  | false =>
    rw [if_neg Bool.false_ne_true, BitVec.getLsbD_and, BitVec.getLsbD_not, hmask]
    by_cases hij : j = i <;> simp [hij, hj]

/-- The buffer with the word at the write cursor zeroed if the cursor stands at its first bit (R256). -/
def beginWord (f : BitBuf) : Memory :=
  if f.op % 32 = 0 then Memory.writeWord f.mem (f.op / 32) 0#32 else f.mem

theorem writeBit_mem (b : Bool) (f : BitBuf) :
    (writeBit b f).mem
      = Memory.writeWord (beginWord f) (f.op / 32)
          (if b then Memory.readWord (beginWord f) (f.op / 32) ||| BitVec.ofNat 32 (2 ^ (31 - f.op % 32))
            else Memory.readWord (beginWord f) (f.op / 32) &&& ~~~BitVec.ofNat 32 (2 ^ (31 - f.op % 32))) := rfl

theorem beginWord_wf {f : BitBuf} (h : Memory.wf f.mem = true) : Memory.wf (beginWord f) = true := by
  unfold beginWord
  split
  · exact Memory.wf_writeWord h _ _
  · exact h

theorem bufBit_beginWord {f : BitBuf} (h : Memory.wf f.mem = true) (q : Nat) :
    bufBit (beginWord f) q = if 32 * (q / 32) = f.op then false else bufBit f.mem q := by
  unfold beginWord
  split
  · rw [bufBit_writeWord h, BitVec.getLsbD_zero]
    exact if_congr (by omega) rfl rfl
  · rw [if_neg (by omega)]

/-- One bit written: it reads back; where it is the first of a word, the rest of that word reads 0; every other bit is
as it was (R256). -/
theorem bufBit_writeBit (b : Bool) {f : BitBuf} (h : Memory.wf f.mem = true) (q : Nat) :
    bufBit (writeBit b f).mem q
      = if q = f.op then b
        else if 32 * (q / 32) = f.op then false
        else bufBit f.mem q := by
  rw [writeBit_mem, bufBit_writeWord (beginWord_wf h), ← bufBit_beginWord h]
  by_cases hword : q / 32 = f.op / 32
  · rw [if_pos hword, getLsbD_putBit _ _ (by omega), bufBit_eq_readWord (beginWord f), hword]
    congr 1
    exact propext (by omega)
  · rw [if_neg hword, if_neg fun hq => hword (congrArg (· / 32) hq)]

/-- Bits written (R256): they read back, the most significant first; the rest of each word begun by them reads 0; every
other bit is as it was. -/
theorem bufBit_writeBits (n v : Nat) {f : BitBuf} (h : Memory.wf f.mem = true) (q : Nat) :
    bufBit (writeBits n v f).mem q
      = if f.op ≤ q ∧ q < f.op + n then v.testBit (f.op + n - 1 - q)
        else if f.op ≤ 32 * (q / 32) ∧ 32 * (q / 32) < f.op + n then false
        else bufBit f.mem q := by
  induction n generalizing f with
  | zero =>
    rw [if_neg (by omega), Nat.add_zero, if_neg (by omega)]
    rfl
  | succ n ih =>
    rw [writeBits, ih (writeBit_wf _ h), bufBit_writeBit _ h, writeBit_op]
    -- `q` is the first bit written, a later one, or none of them.
    obtain hq | hq | hq : q = f.op ∨ (f.op < q ∧ q < f.op + (n + 1)) ∨ (q < f.op ∨ f.op + (n + 1) ≤ q) := by omega
    · rw [if_neg (by omega), if_neg (by omega), if_pos hq, if_pos (by omega),
        show f.op + (n + 1) - 1 - q = n by omega]
    · rw [if_pos (by omega), if_pos (by omega), show f.op + 1 + n - 1 - q = f.op + (n + 1) - 1 - q by omega]
    · rw [if_neg (by omega), if_neg (c := f.op ≤ q ∧ q < f.op + (n + 1)) (by omega), if_neg (c := q = f.op) (by omega)]
      by_cases hnew : f.op ≤ 32 * (q / 32) ∧ 32 * (q / 32) < f.op + (n + 1)
      · rw [if_pos hnew]
        by_cases hfirst : 32 * (q / 32) = f.op
        · rw [if_neg (by omega), if_pos hfirst]
        · rw [if_pos (by omega)]
      · rw [if_neg hnew, if_neg (by omega), if_neg (by omega)]

/-! ### The frame of the host -/

theorem appendFrame_eq (n v : Nat) (s : State) :
    appendFrame n v s = { s with frame := ⟨(writeBits n v s.frame).mem, s.frame.op + n⟩ } := by
  rw [appendFrame, ← writeBits_op n v s.frame]

/-- The 32 bits of a word written to the frame append it. -/
theorem appendsWord_writeBits {s : State} (h : Memory.wf s.frame.mem = true) (w : Word) :
    AppendsWord s w (writeBits 32 w.toNat s.frame).mem := by
  refine ⟨writeBits_wf _ _ h, fun k hk => ?_, fun q hq => ?_, fun a ha => readByte_eq_of_bufBit fun k hk => ?_⟩
  · rw [bufBit_writeBits _ _ h, if_pos (by omega), BitVec.testBit_toNat,
      show s.frame.op + 32 - 1 - (s.frame.op + k) = 31 - k by omega]
  · rw [bufBit_writeBits _ _ h, if_neg (by omega), if_neg (by omega)]
  · rw [bufBit_writeBits _ _ h, if_neg (by omega), if_neg (by omega)]

/-- A step that appends the 32 bits of a word to the frame of `u`, which has the frame of `s`. -/
theorem exists_appendsWord {i : Instr} {s u : State} (h : Memory.wf s.frame.mem = true) (hu : u.frame = s.frame)
    {w : Word} (hi : exec i s = .next (appendFrame 32 w.toNat u)) :
    ∃ m, exec i s = .next { u with frame := ⟨m, s.frame.op + 32⟩ } ∧ AppendsWord s w m :=
  ⟨_, by rw [hi, appendFrame_eq, hu], appendsWord_writeBits h w⟩

theorem exec_pad (s : State) :
    exec .pad s
      = .next
          { s with
            frame := ⟨(writeBits (padField s.frame.op).n 0 s.frame).mem, 32 * ((s.frame.op + 31) / 32)⟩ } := by
  rw [exec, execPad, appendFrame_eq, padField,
    show s.frame.op + (32 - s.frame.op % 32) % 32 = 32 * ((s.frame.op + 31) / 32) by omega]

/-- `CRC32` over words that are whole, or over none (R89). -/
theorem exec_crc32_of_whole {a b : Nat} {s : State} (h : b < a ∨ b < frameWords s) :
    exec (.crc32 a b) s = .next (appendFrame 32 (crc32Range s.frame.mem a b).toNat s) := by
  rw [exec, execCrc32, if_pos h]

/-- `CRC32` over a word that is not whole yet: a free word (log 17). -/
theorem exec_crc32_of_free {a b : Nat} {s : State} (hab : a ≤ b) (h : frameWords s ≤ b) :
    exec (.crc32 a b) s = .next (appendFrame 32 (Config.freeWord s.draws).toNat { s with draws := s.draws + 1 }) := by
  rw [exec, execCrc32, if_neg (by omega), drawFrameWord]

/-- `CRC8` over two whole words (R89, R217). -/
theorem exec_crc8_of_whole {s : State} (h : 2 ≤ frameWords s) :
    exec .crc8 s
      = .next
          { s with
            frame :=
              ⟨Memory.writeByte s.frame.mem 7
                (headerCrc8 s.params (Memory.readWord s.frame.mem 0) (Memory.readWord s.frame.mem 1)),
                s.frame.op⟩ } := by
  rw [exec, execCrc8, if_pos h]

/-- `CRC8` over words that are not both whole: a free byte (log 17). -/
theorem exec_crc8_of_free {s : State} (h : frameWords s < 2) :
    exec .crc8 s
      = .next
          { s with
            frame := ⟨Memory.writeByte s.frame.mem 7 ((Config.freeWord s.draws).extractLsb' 0 8), s.frame.op⟩,
            draws := s.draws + 1 } := by
  rw [exec, execCrc8, if_neg (Nat.not_le.2 h), drawFrameWord]

theorem sameBytesOutside_writeByte (m : Memory) (a : Nat) (v : Byte) :
    sameBytesOutside a 1 m (Memory.writeByte m a v) :=
  fun _ hc => Memory.readByte_writeByte_other m (by omega) v

/-- Settles O51: `PAD` writes the bits that are left of the word, `RAW` and `CRC32` the 32 bits of a word, `CRC8` one
byte; each is read back by the rule of its write. -/
theorem pseudoElementsWriteFrame : Obligations.PseudoElementsWriteFrame := by
  intro s h
  refine ⟨⟨_, exec_pad s, writeBits_wf _ _ h, fun q hlo hhi => ?padZero, fun q hq => ?padKeeps⟩,
    fun word => exists_appendsWord h rfl rfl,
    fun a b hab => exists_appendsWord h rfl (exec_crc32_of_whole hab), fun a b hab hb => ?crc32Free,
    fun h2 => ⟨_, exec_crc8_of_whole h2, Memory.wf_writeByte h _ _, Memory.readByte_writeByte_same h _ _,
      sameBytesOutside_writeByte _ _ _⟩,
    fun h2 => ⟨_, exec_crc8_of_free h2, Memory.wf_writeByte h _ _, sameBytesOutside_writeByte _ _ _⟩⟩
  case padZero =>
    simp only [padField]
    rw [bufBit_writeBits _ _ h, if_pos (by omega), Nat.zero_testBit]
  case padKeeps =>
    simp only [padField]
    rw [bufBit_writeBits _ _ h, if_neg (by omega), if_neg (by omega)]
  case crc32Free =>
    obtain ⟨m, hm, happends⟩ :=
      exists_appendsWord (u := { s with draws := s.draws + 1 }) h rfl (exec_crc32_of_free hab hb)
    exact ⟨m, _, hm, happends⟩

end Sys2Proof.Machine

/-! PROOFS of the family 40_bitcursor: the reads at the cursor and the split form of one (R101 to R104), the seeks and
the span (R105, R106, R109), and the end of a word and of the span (R107, R108). -/

namespace Sys2Proof.Machine

/-! ### A read bit by bit -/

/-- A read zero-extended to a register: below its width the bits of the span, the last one read least significant, and
zeros above (R101, R102). -/
theorem getLsbD_setWidth_bitRead (ws : List Word) (p : Nat) {n : Nat} (hn : n ≤ 32) (k : Nat) :
    ((bitRead ws p n).setWidth 32).getLsbD k = (decide (k < n) && bitAt ws (p + (n - 1 - k))) := by
  rw [BitVec.getLsbD_setWidth]
  by_cases hk : k < n
  · have hbit := getLsbD_bitRead ws p n (k := n - 1 - k) (by omega)
    rw [show n - 1 - (n - 1 - k) = k by omega] at hbit
    rw [hbit, decide_eq_true hk, decide_eq_true (Nat.lt_of_lt_of_le hk hn)]
  · rw [BitVec.getLsbD_of_ge _ _ (Nat.le_of_not_lt hk), decide_eq_false hk, Bool.and_false, Bool.false_and]

/-- Bit `j` of word `i` is the span's bit `31 - j` places into that word (R100). -/
theorem testBit_word (ws : List Word) {i j q : Nat} (hj : j < 32) (hq : q = 32 * i + (31 - j)) :
    (ws.getD i 0#32).toNat.testBit j = bitAt ws q := by
  rw [BitVec.testBit_toNat, bitAt, show q / 32 = i by omega, show 31 - q % 32 = j by omega]

/-- The split read of a field within its word: the word shifted down and masked (R104). -/
theorem splitRead_of_le (ws : List Word) {p n : Nat} (h : n ≤ 32 - p % 32) :
    splitRead ws p n = ((ws.getD (p / 32) 0#32).toNat >>> (32 - p % 32 - n)) % 2 ^ n :=
  if_pos h

/-- The split read of a field that runs `r` bits on into the next word: the tail of its word above the head of the next
(R104). -/
theorem splitRead_of_runon (ws : List Word) {p n r : Nat} (h : n = 32 - p % 32 + r) (hr : 0 < r) :
    splitRead ws p n
      = (((ws.getD (p / 32) 0#32).toNat % 2 ^ (32 - p % 32)) <<< r)
          ||| ((ws.getD (p / 32 + 1) 0#32).toNat >>> (32 - r)) := by
  have hsplit : ¬ n ≤ 32 - p % 32 := by omega
  obtain rfl : r = n - (32 - p % 32) := by omega
  exact if_neg hsplit

/-- The split read has the bits of the read it stands for (R101, R104). -/
theorem testBit_splitRead (ws : List Word) (p : Nat) {n : Nat} (hn : n ≤ 32) (k : Nat) :
    (splitRead ws p n).testBit k = (decide (k < n) && bitAt ws (p + (n - 1 - k))) := by
  by_cases hfit : n ≤ 32 - p % 32
  · rw [splitRead_of_le ws hfit, Nat.testBit_mod_two_pow, Nat.testBit_shiftRight]
    by_cases hk : k < n
    · rw [testBit_word ws (q := p + (n - 1 - k)) (by omega) (by omega)]
    · rw [decide_eq_false hk, Bool.false_and, Bool.false_and]
  · obtain ⟨r, hr⟩ : ∃ r, n = 32 - p % 32 + r := ⟨n - (32 - p % 32), by omega⟩
    rw [splitRead_of_runon ws hr (by omega), Nat.testBit_or, Nat.testBit_shiftLeft, Nat.testBit_mod_two_pow,
      Nat.testBit_shiftRight]
    by_cases hlow : k < r
    · -- The bit comes from the head of the next word.
      rw [decide_eq_false (Nat.not_le.2 hlow), Bool.false_and, Bool.false_or, decide_eq_true (by omega : k < n),
        Bool.true_and, testBit_word ws (q := p + (n - 1 - k)) (by omega) (by omega)]
    · -- The head of the next word has no bit here.
      have hhead : (ws.getD (p / 32 + 1) 0#32).toNat.testBit (32 - r + k) = false := by
        rw [BitVec.testBit_toNat, BitVec.getLsbD_of_ge _ _ (by omega)]
      rw [hhead, Bool.or_false, decide_eq_true (Nat.le_of_not_lt hlow), Bool.true_and]
      by_cases hk : k < n
      · rw [testBit_word ws (q := p + (n - 1 - k)) (by omega) (by omega), decide_eq_true hk,
          decide_eq_true (by omega : k - r < 32 - p % 32)]
      · rw [decide_eq_false hk, decide_eq_false (by omega), Bool.false_and, Bool.false_and]

/-- The two formulations of a read give the same register (R104). -/
theorem setWidth_bitRead_eq_splitRead (ws : List Word) (p : Nat) {n : Nat} (hn : n ≤ 32) :
    (bitRead ws p n).setWidth 32 = BitVec.ofNat 32 (splitRead ws p n) := by
  apply BitVec.eq_of_getLsbD_eq
  intro k hk
  rw [getLsbD_setWidth_bitRead ws p hn, BitVec.getLsbD_ofNat, testBit_splitRead ws p hn, decide_eq_true hk,
    Bool.true_and]

/-! ### `RD_BITS` and `PEEK_BITS` -/

/-- What a read of `ARG0` bits at the cursor gives: the value of R101, zero-extended. -/
def cursorRead (s : State) : Word :=
  (bitRead (spanWords s) s.p (arg0Nat s)).setWidth 32

theorem exec_rdBits (s : State) :
    exec .rdBits s = readArgBits 0x04#6 s fun v => { s with res := v, p := s.p + arg0Nat s } := rfl

theorem exec_peekBits (s : State) : exec .peekBits s = readArgBits 0x05#6 s fun v => { s with res := v } := rfl

section
variable {s : State} (h : Ready s)
include h

/-- A read of at most 32 bits that stays within the span (R101). -/
theorem readArgBits_of_within (hn : arg0Nat s ≤ 32) (hp : s.p + arg0Nat s ≤ 32 * s.spanLen) (op : BitVec 6)
    (put : Word → State) : readArgBits op s put = .next (put (cursorRead s)) := by
  rw [readArgBits, onSpan_of_ready h, if_neg (Nat.not_lt.2 hn), if_neg (Nat.not_lt.2 hp), cursorRead]

/-- A read that passes the end of the span raises with the cursor as its number (R101). -/
theorem readArgBits_of_short (hn : arg0Nat s ≤ 32) (hp : 32 * s.spanLen < s.p + arg0Nat s) (op : BitVec 6)
    (put : Word → State) : readArgBits op s put = .next (abort .resOnly op ⟨.lengthError, s.p⟩ s) := by
  rw [readArgBits, onSpan_of_ready h, if_neg (Nat.not_lt.2 hn), if_pos hp]

/-- A read wider than a register raises with its width (R102). -/
theorem readArgBits_of_wide (hn : 32 < arg0Nat s) (op : BitVec 6) (put : Word → State) :
    readArgBits op s put = .next (abort .resOnly op ⟨.badFormat, arg0Nat s⟩ s) := by
  rw [readArgBits, onSpan_of_ready h, if_pos hn]

theorem exec_rdBits_of_within (hn : arg0Nat s ≤ 32) (hp : s.p + arg0Nat s ≤ 32 * s.spanLen) :
    exec .rdBits s = .next { s with res := cursorRead s, p := s.p + arg0Nat s } :=
  (exec_rdBits s).trans (readArgBits_of_within h hn hp _ _)

theorem exec_peekBits_of_within (hn : arg0Nat s ≤ 32) (hp : s.p + arg0Nat s ≤ 32 * s.spanLen) :
    exec .peekBits s = .next { s with res := cursorRead s } :=
  (exec_peekBits s).trans (readArgBits_of_within h hn hp _ _)

end

/-- The value read, from the bits of the span (R100, R101). -/
theorem getLsbD_cursorRead {s : State} (hn : arg0Nat s ≤ 32) (hp : s.p + arg0Nat s ≤ 32 * s.spanLen) (k : Nat) :
    (cursorRead s).getLsbD k = (decide (k < arg0Nat s) && spanBit s (s.p + (arg0Nat s - 1 - k))) := by
  rw [cursorRead, getLsbD_setWidth_bitRead _ _ hn]
  by_cases hk : k < arg0Nat s
  · rw [bitAt_spanWords (by omega)]
  · rw [decide_eq_false hk, Bool.false_and, Bool.false_and]

/-- Settles O14: by the three cases of a read, which the two operations share: within the span, past its end, wider than
a register. -/
theorem readAndPeekBits : Obligations.ReadAndPeekBits := by
  intro s h
  refine ⟨rfl, rfl, fun hn hp => ?within, fun hn hp => ?short, fun hn => ?wide⟩
  case within =>
    exact ⟨cursorRead s, exec_rdBits_of_within h hn hp, exec_peekBits_of_within h hn hp,
      fun k _ => getLsbD_cursorRead hn hp k⟩
  case short =>
    have hstop := readArgBits_of_short h hn hp
    exact ⟨takesError_of_abort (e := ⟨.lengthError, s.p⟩) ((exec_rdBits s).trans (hstop _ _)),
      takesError_of_abort (e := ⟨.lengthError, s.p⟩) ((exec_peekBits s).trans (hstop _ _))⟩
  case wide =>
    have hstop := readArgBits_of_wide h hn
    exact ⟨takesError_of_abort (e := ⟨.badFormat, arg0Nat s⟩) ((exec_rdBits s).trans (hstop _ _)),
      takesError_of_abort (e := ⟨.badFormat, arg0Nat s⟩) ((exec_peekBits s).trans (hstop _ _))⟩

/-- Settles O15: `RD_BITS` completes, and the value it reads is that of the split form, bit by bit. -/
theorem splitReadIsReadBits : Obligations.SplitReadIsReadBits := by
  intro s h _ hn hp
  rw [exec_rdBits_of_within h hn hp, cursorRead, setWidth_bitRead_eq_splitRead _ _ hn]

/-! ### `SEEK_WORD`, `SEEK_BYTE`, `SET_SPAN` -/

/-- An operation that rejects a number above a limit completes up to and with the limit. -/
theorem whenIdle_limit_of_le {s : State} (h : Idle s) {limit a : Nat} (ha : a ≤ limit) (error done : Result) :
    whenIdle s (if limit < a then error else done) = done := by
  rw [whenIdle_of_idle h, if_neg (Nat.not_lt.2 ha)]

theorem whenIdle_limit_of_lt {s : State} (h : Idle s) {limit a : Nat} (ha : limit < a) (error done : Result) :
    whenIdle s (if limit < a then error else done) = error := by
  rw [whenIdle_of_idle h, if_pos ha]

/-- Settles O16: each of the three compares one number with its limit, and raises with that number. -/
theorem seeksAndSetSpan : Obligations.SeeksAndSetSpan := by
  intro s h
  refine ⟨rfl, rfl, rfl, fun hk => whenIdle_limit_of_le h hk _ _, fun hk => ?word,
    fun hk => whenIdle_limit_of_le h hk _ _, fun hk => ?byte,
    fun hk => whenIdle_limit_of_le h hk _ _, fun hk => ?span⟩
  case word => exact takesError_of_abort (e := ⟨.lengthError, arg0Nat s⟩) (whenIdle_limit_of_lt h hk _ _)
  case byte => exact takesError_of_abort (e := ⟨.lengthError, arg0Nat s⟩) (whenIdle_limit_of_lt h hk _ _)
  case span =>
    exact takesError_of_abort (e := ⟨.lengthError, arg0Nat s + arg1Nat s⟩) (whenIdle_limit_of_lt h hk _ _)

/-! ### `ALIGN_WORD` and `AT_END` -/

theorem exec_alignWord_of_idle {s : State} (h : Idle s) :
    exec .alignWord s = .next { s with p := 32 * ceilWords s.p } :=
  whenIdle_of_idle h _

theorem exec_atEnd_of_idle {s : State} (h : Idle s) :
    exec .atEnd s = .next { s with res := if s.p = 32 * s.spanLen then 1#32 else 0#32 } :=
  whenIdle_of_idle h _

/-- The end of the word a position lies in is the next multiple of 32 at or after it. -/
theorem le_ceilWords (q : Nat) : q ≤ 32 * ceilWords q ∧ 32 * ceilWords q < q + 32 := by
  unfold ceilWords
  omega

/-- Rounding up to a word stays within a whole number of words. -/
theorem ceilWords_le {q n : Nat} (h : q ≤ 32 * n) : ceilWords q ≤ n := by
  unfold ceilWords
  omega

/-- Settles O17: the cursor goes to the end of its word, and the flag is the comparison with the end of the span. -/
theorem alignAndAtEnd : Obligations.AlignAndAtEnd := by
  intro s h
  obtain ⟨hle, hlt⟩ := le_ceilWords s.p
  refine ⟨rfl, rfl, ⟨_, exec_alignWord_of_idle h, Nat.dvd_mul_right _ _, hle, hlt,
    fun hp => Nat.mul_le_mul_left 32 (ceilWords_le hp)⟩, fun hend => ?atEnd, fun hend => ?before⟩
  case atEnd => rw [exec_atEnd_of_idle h, if_pos hend]
  case before => rw [exec_atEnd_of_idle h, if_neg hend]

end Sys2Proof.Machine

/-! PROOFS of the family 41_sample: the decode in its four modes (R121 to R125), the word the encoder builds (R126), and
the round trip (R127). -/

namespace Sys2Proof.Machine

/-! ### `SAMPLE_DEC` and `SAMPLE_ENC` -/

theorem exec_sampleDec_of_idle {s : State} (h : Idle s) :
    exec .sampleDec s = .next { s with samp := decodeSample s.arg0 } :=
  whenIdle_of_idle h _

theorem exec_sampleEnc_of_idle {s : State} (h : Idle s) :
    exec .sampleEnc s
      = .next
          { s with
            samp :=
              { s.samp with
                word := encodeSample (argSigned s.arg0) (argSigned s.arg1) (argSigned s.arg2) (argSigned s.arg3) } } :=
  whenIdle_of_idle h _

/-! ### The fields of a word as numbers -/

theorem toNat_slotA (w : Word) : (slotA w).toNat = w.toNat / 2 ^ 20 % 1024 := by
  rw [slotA, BitVec.extractLsb'_toNat, Nat.shiftRight_eq_div_pow]

theorem toNat_slotM (w : Word) : (slotM w).toNat = w.toNat / 2 ^ 10 % 1024 := by
  rw [slotM, BitVec.extractLsb'_toNat, Nat.shiftRight_eq_div_pow]

theorem toNat_slotT (w : Word) : (slotT w).toNat = w.toNat % 1024 := by
  rw [slotT, BitVec.extractLsb'_toNat, Nat.shiftRight_zero]

/-- The mode bits of a word are the two digits of its top two bits (R62). -/
theorem modeBits_of_div {w : Word} {tc tp : Bool} (h : w.toNat / 2 ^ 30 = 2 * tc.toNat + tp.toNat) :
    w.getLsbD 31 = tc ∧ w.getLsbD 30 = tp := by
  have h31 : w.toNat / 2 ^ 31 = tc.toNat := by
    have := tp.toNat_lt
    omega
  rw [← BitVec.testBit_toNat, ← BitVec.testBit_toNat, Nat.testBit_eq_decide_div_mod_eq,
    Nat.testBit_eq_decide_div_mod_eq, h31, h]
  cases tc <;> cases tp <;> decide

/-- A decoded word in the arithmetic of the rules, by its mode (R121 to R125). -/
theorem decodeSample_of_mode {w : Word} (tc tp : Bool) (h : w.toNat / 2 ^ 30 = 2 * tc.toNat + tp.toNat) :
    decodeSample w
      = { tc := tc, tp := tp, adcTm1 := if tc && !tp then -1 else ((w.toNat / 2 ^ 20 % 1024 : Nat) : Int),
          adc := if tc && tp then -1 else ((w.toNat / 2 ^ 10 % 1024 : Nat) : Int),
          tot := if tc && tp then ((w.toNat / 2 ^ 10 % 1024 : Nat) : Int) else -1,
          toa := ((w.toNat % 1024 : Nat) : Int), word := w } := by
  obtain ⟨htc, htp⟩ := modeBits_of_div h
  simp only [decodeSample, htc, htp, toNat_slotA, toNat_slotM, toNat_slotT]
  cases tc <;> cases tp <;> rfl

/-- Settles O18: the top two bits give the mode, and each mode its record. -/
theorem sampleDecByMode : Obligations.SampleDecByMode := by
  intro s h
  have hdec := exec_sampleDec_of_idle h
  refine ⟨rfl, fun hm => ?adcMode, fun hm => ?totBusy, fun hm => ?totMode, fun hm => ?characterisation⟩
  case adcMode => rw [hdec, decodeSample_of_mode false false hm]; rfl
  case totBusy => rw [hdec, decodeSample_of_mode false true hm]; rfl
  case totMode => rw [hdec, decodeSample_of_mode true true hm]; rfl
  case characterisation => rw [hdec, decodeSample_of_mode true false hm]; rfl

/-! ### The word `SAMPLE_ENC` builds -/

/-- A negative argument is absent and gives zero, another its value, which ten bits hold (R126). -/
theorem toNat_clampNeg (x : BitVec 11) : (clampNeg x).toNat = x.toInt.toNat := by
  unfold clampNeg
  split
  next hneg => rw [Int.toNat_of_nonpos (BitVec.toInt_neg_of_msb_true hneg).le, BitVec.toNat_ofNat, Nat.zero_mod]
  next hpos =>
    have hmsb : x.msb = false := Bool.eq_false_iff.2 hpos
    rw [BitVec.toNat_toInt_of_msb x hmsb, BitVec.toNat_setWidth, Nat.mod_eq_of_lt (BitVec.toNat_lt_of_msb_false hmsb)]

/-- The same as an integer: the larger of the argument and zero. -/
theorem coe_toNat_clampNeg (x : BitVec 11) : ((clampNeg x).toNat : Int) = max x.toInt 0 := by
  rw [toNat_clampNeg, Int.toNat_eq_max]

theorem toNat_append_eq_add {n m : Nat} (v : BitVec n) (w : BitVec m) :
    (v ++ w).toNat = v.toNat * 2 ^ m + w.toNat := by
  rw [BitVec.toNat_append, ← Nat.shiftLeft_add_eq_or_of_lt w.isLt, Nat.shiftLeft_eq]

/-- A sample word is the sum of its placed fields (R62). -/
theorem sampleWord_eq_ofNat (tc tp : Bool) (a m t : BitVec 10) :
    sampleWord tc tp a m t
      = BitVec.ofNat 32
          (tc.toNat * 2 ^ 31 + tp.toNat * 2 ^ 30 + a.toNat * 2 ^ 20 + m.toNat * 2 ^ 10 + t.toNat) := by
  have hsum : (sampleWord tc tp a m t).toNat
      = tc.toNat * 2 ^ 31 + tp.toNat * 2 ^ 30 + a.toNat * 2 ^ 20 + m.toNat * 2 ^ 10 + t.toNat := by
    simp only [sampleWord, toNat_append_eq_add, BitVec.toNat_ofBool]
    ring
  rw [← hsum, BitVec.ofNat_toNat, BitVec.setWidth_eq]

section
variable {tot : BitVec 11} (adcTm1 adc toa : BitVec 11)

/-- A positive `tot` takes the main slot and sets both mode bits (R126). -/
theorem encodeSample_of_pos (h : 0 < tot.toInt) :
    encodeSample adcTm1 adc tot toa = sampleWord true true (clampNeg adcTm1) (clampNeg tot) (clampNeg toa) := by
  rw [encodeSample, decide_eq_true h, if_pos rfl]

/-- Without a `tot`, which `tot = 0` is too, the main slot holds `adc` and both mode bits are clear (R126). -/
theorem encodeSample_of_nonpos (h : ¬ 0 < tot.toInt) :
    encodeSample adcTm1 adc tot toa = sampleWord false false (clampNeg adcTm1) (clampNeg adc) (clampNeg toa) := by
  rw [encodeSample, decide_eq_false h, if_neg Bool.false_ne_true]

/-- The built word in the arithmetic of the rule, with and without a `tot` (R126). -/
theorem encodeSample_eq_ofNat :
    encodeSample adcTm1 adc tot toa
      = BitVec.ofNat 32
          ((if 0 < tot.toInt then 1 else 0) * 2 ^ 31 + (if 0 < tot.toInt then 1 else 0) * 2 ^ 30
            + adcTm1.toInt.toNat * 2 ^ 20
            + (if 0 < tot.toInt then tot.toInt.toNat else adc.toInt.toNat) * 2 ^ 10 + toa.toInt.toNat) := by
  by_cases h : 0 < tot.toInt
  · simp only [encodeSample_of_pos _ _ _ h, sampleWord_eq_ofNat, toNat_clampNeg, if_pos h, Bool.toNat_true]
  · simp only [encodeSample_of_nonpos _ _ _ h, sampleWord_eq_ofNat, toNat_clampNeg, if_neg h, Bool.toNat_false]

end

/-- Settles O19: the word built is the sum of its placed fields, and no other field is written. -/
theorem sampleEncBuildsWord : Obligations.SampleEncBuildsWord := by
  intro s h
  refine ⟨rfl, ?_⟩
  rw [exec_sampleEnc_of_idle h, encodeSample_eq_ofNat]
  rfl

/-! ### The round trip -/

/-- The two operations one after the other: the record is the decode of the word built. -/
theorem exec_sampleEnc_sampleDec {s : State} (h : Idle s) :
    ∃ u v, exec .sampleEnc s = .next u ∧ exec .sampleDec { u with arg0 := u.samp.word } = .next v
      ∧ v.samp
          = decodeSample
              (encodeSample (argSigned s.arg0) (argSigned s.arg1) (argSigned s.arg2) (argSigned s.arg3)) :=
  ⟨_, _, exec_sampleEnc_of_idle h, exec_sampleDec_of_idle h, rfl⟩

/-- Settles O20: the word built has the mode of its main field, so the decode reads back what was placed. -/
theorem sampleRoundTrip : Obligations.SampleRoundTrip := by
  rintro s _ _ _ _ h rfl rfl rfl rfl
  obtain ⟨u, v, henc, hdec, hsamp⟩ := exec_sampleEnc_sampleDec h
  refine ⟨u, v, henc, hdec, ?_⟩
  by_cases ht : 0 < (argSigned s.arg2).toInt
  · rw [hsamp, encodeSample_of_pos _ _ _ ht, decodeSample_sampleWord]
    exact ⟨coe_toNat_clampNeg _, coe_toNat_clampNeg _, fun hle => absurd ht (not_lt.2 hle),
      fun _ => ⟨(coe_toNat_clampNeg _).trans (max_eq_left ht.le), rfl⟩⟩
  · rw [hsamp, encodeSample_of_nonpos _ _ _ ht, decodeSample_sampleWord]
    exact ⟨coe_toNat_clampNeg _, coe_toNat_clampNeg _, fun _ => ⟨coe_toNat_clampNeg _, rfl⟩,
      fun hlt => absurd hlt ht⟩

end Sys2Proof.Machine

/-! PROOFS of the family 42_daqlink: the two forms of the CRC-32 and its residue (R140 to R142), the slots of a link
record (R138), and the record of a whole DAQ link frame (R135, R136, R139, R143). -/

namespace Sys2Proof.Machine

/-! ### The register of a CRC -/

section
variable {n : Nat} (poly : BitVec n)

/-- What a shift feeds back: the polynomial where the bit out and the message's bit differ, else nothing (R141). -/
def crcFeedback (differ : Bool) : BitVec n := if differ then poly else 0#n

theorem crcBits_succ {w : Nat} (v : BitVec w) (k : Nat) (a : BitVec n) :
    crcBits poly v (k + 1) a = crcBits poly v k (a <<< 1 ^^^ crcFeedback poly (a.msb ^^ v.getLsbD k)) := by
  rw [crcBits]
  cases a.msb ^^ v.getLsbD k with
  | true => rfl
  | false => rw [crcFeedback, if_neg Bool.false_ne_true, if_neg Bool.false_ne_true, BitVec.xor_zero]

theorem crcFeedback_xor (b c : Bool) : crcFeedback poly (b ^^ c) = crcFeedback poly b ^^^ crcFeedback poly c := by
  cases b <;> cases c <;> simp [crcFeedback]

/-- Feeding is linear: two messages into two registers, each pair added, give the sum (R141, R216). -/
theorem crcBits_xor {w : Nat} (u v : BitVec w) (k : Nat) (a b : BitVec n) :
    crcBits poly (u ^^^ v) k (a ^^^ b) = crcBits poly u k a ^^^ crcBits poly v k b := by
  induction k generalizing a b with
  | zero => rfl
  | succ k ih =>
    rw [crcBits_succ, crcBits_succ, crcBits_succ, ← ih, BitVec.shiftLeft_xor_distrib, BitVec.msb_xor,
      BitVec.getLsbD_xor]
    simp only [crcFeedback_xor]
    congr 1
    ac_rfl

/-- Bits that equal the ones leaving the register cancel the feedback: the register is only shifted (R141). -/
theorem crcBits_of_top {w : Nat} {v : BitVec w} {k : Nat} {a : BitVec n} (hk : k ≤ n)
    (h : ∀ i < k, v.getLsbD i = a.getLsbD (n - k + i)) : crcBits poly v k a = a <<< k := by
  induction k generalizing a with
  | zero => exact (BitVec.shiftLeft_zero a).symm
  | succ k ih =>
    have hmsb : a.msb = v.getLsbD k := by
      rw [h k (Nat.lt_succ_self k), BitVec.msb_eq_getLsbD_last]
      congr 1
      omega
    have hrest : ∀ i < k, v.getLsbD i = (a <<< 1).getLsbD (n - k + i) := fun i hi => by
      rw [h i (by omega), BitVec.getLsbD_shiftLeft, decide_eq_true (by omega), decide_eq_false (by omega)]
      simp only [Bool.not_false, Bool.true_and]
      congr 1
      omega
    rw [crcBits, hmsb, Bool.xor_self, if_neg Bool.false_ne_true, ih (by omega) hrest, ← BitVec.shiftLeft_add,
      Nat.add_comm]

/-- A message is fed in two runs: its bits above the last `k`, which `u` holds, then the last `k` (R141). -/
theorem crcBits_add {w w' : Nat} {u : BitVec w'} {v : BitVec w} {k m : Nat}
    (h : ∀ i < m, u.getLsbD i = v.getLsbD (k + i)) (a : BitVec n) :
    crcBits poly v (k + m) a = crcBits poly v k (crcBits poly u m a) := by
  induction m generalizing a with
  | zero => rfl
  | succ m ih =>
    have hrest := ih fun i hi => h i (by omega)
    rw [Nat.add_succ, crcBits_succ, crcBits_succ, h m (Nat.lt_succ_self m), hrest]

/-- A register fed its own value is zero (R141). -/
theorem crcBits_self (a : BitVec n) : crcBits poly a n a = 0#n := by
  rw [crcBits_of_top poly (Nat.le_refl n) fun i _ => by rw [Nat.sub_self, Nat.zero_add],
    BitVec.shiftLeft_eq_zero (Nat.le_refl n)]

/-- The byte above the last `k` bits goes first. -/
theorem crcBits_add_eight {w : Nat} (v : BitVec w) (k : Nat) (a : BitVec n) :
    crcBits poly v (k + 8) a = crcBits poly v k (crcBits poly (v.extractLsb' k 8) 8 a) :=
  crcBits_add poly (fun i hi => by rw [BitVec.getLsbD_extractLsb', decide_eq_true hi, Bool.true_and]) a

/-- One table step: the register shifted, and the table's entry for its top byte plus the byte fed (R141). -/
theorem crcBits_eight (hn : 8 ≤ n) (b : Byte) (a : BitVec n) :
    crcBits poly b 8 a = a <<< 8 ^^^ crcBits poly (a.extractLsb' (n - 8) 8 ^^^ b) 8 0#n := by
  have htop : crcBits poly (a.extractLsb' (n - 8) 8) 8 a = a <<< 8 :=
    crcBits_of_top poly hn fun i hi => by rw [BitVec.getLsbD_extractLsb', decide_eq_true hi, Bool.true_and]
  calc crcBits poly b 8 a
    _ = crcBits poly (a.extractLsb' (n - 8) 8 ^^^ (a.extractLsb' (n - 8) 8 ^^^ b)) 8 (a ^^^ 0#n) := by
        rw [← BitVec.xor_assoc, BitVec.xor_self, BitVec.zero_xor, BitVec.xor_zero]
    _ = _ := by rw [crcBits_xor, htop]

end

/-! ### The CRC-32 of words -/

theorem crc32Of_append (ws vs : List Word) : crc32Of (ws ++ vs) = vs.foldl crc32Word (crc32Of ws) :=
  List.foldl_append

/-- A zero initial value keeps the register at zero over leading zero words (R140). -/
theorem crc32Of_replicate_zero (n : Nat) : crc32Of (List.replicate n 0#32) = 0#32 := by
  induction n with
  | zero => rfl
  | succ n ih => rw [List.replicate_succ', crc32Of_append, ih]; exact crcBits_self crc32Poly 0#32

/-- Settles O23: the check word equals the register it meets, and the register stays zero over leading zeros. -/
theorem crc32ZeroResidue : Obligations.Crc32ZeroResidue := by
  intro ws n
  constructor
  · rw [crc32Of_append]
    exact crcBits_self crc32Poly (crc32Of ws)
  · rw [crc32Of_append, crc32Of_replicate_zero, crc32Of]

/-- A word into the register is its four bytes, the most significant first (R141). -/
theorem crc32Word_eq_bytes (crc : BitVec 32) (w : Word) :
    crc32Word crc w
      = crcBits crc32Poly (w.extractLsb' 0 8) 8
          (crcBits crc32Poly (w.extractLsb' 8 8) 8
            (crcBits crc32Poly (w.extractLsb' 16 8) 8 (crcBits crc32Poly (w.extractLsb' 24 8) 8 crc))) := by
  rw [crc32Word, crcBits_add_eight _ w 24, crcBits_add_eight _ w 16, crcBits_add_eight _ w 8,
    crcBits_add_eight _ w 0]
  rfl

/-- Settles O24: each byte of a word is one table step. -/
theorem crc32TableForm : Obligations.Crc32TableForm := by
  refine ⟨by decide, by decide, fun crc w => ?_⟩
  have hstep : ∀ (b : Byte) (a : BitVec 32),
      crcBits crc32Poly b 8 a = a <<< 8 ^^^ crcBits crc32Poly (a.extractLsb' 24 8 ^^^ b) 8 0#32 :=
    crcBits_eight crc32Poly (by decide)
  rw [crc32Word_eq_bytes, hstep (w.extractLsb' 0 8), hstep (w.extractLsb' 8 8), hstep (w.extractLsb' 16 8),
    hstep (w.extractLsb' 24 8)]

/-- The words of the span, read one by one. -/
theorem spanWords_eq_map (s : State) : spanWords s = (List.range s.spanLen).map fun i => spanWord s i := rfl

theorem exec_crc32Span_of_ready {s : State} (h : Ready s) :
    exec .crc32Span s = .next { s with crc32 := crc32Of (spanWords s) } := by
  rw [exec, execCrc32Span, onSpan_of_ready h]

/-- Settles O22: the check runs on the span's words and writes its one register. -/
theorem crc32SpanOfWords : Obligations.Crc32SpanOfWords := by
  refine ⟨fun s h => ⟨rfl, ?_⟩, rfl, by decide⟩
  rw [exec_crc32Span_of_ready h, spanWords_eq_map]

/-! ### The slots of a link record -/

theorem loadSlot_of_lt (d : Link) {j : Nat} (h : j < 18) : loadSlot d j = d.ch[j] := by
  rw [loadSlot, if_pos h, Vector.getElem?_eq_getElem (by omega), Option.getD_some]

theorem loadSlot_calib (d : Link) : loadSlot d 18 = d.calib := rfl

theorem loadSlot_of_gt (d : Link) {j : Nat} (h : 18 < j) : loadSlot d j = d.ch[j - 1]?.getD 0#32 := by
  rw [loadSlot, if_neg (by omega), if_neg (by omega)]

/-- The channel that a slot other than 18 holds: slot 18 is not counted (R138). -/
def channelOfSlot (slot : Nat) : Nat := if slot < 18 then slot else slot - 1

theorem channelOfSlot_lt {i : Nat} (hi : i < 37) : channelOfSlot i < 36 := by
  unfold channelOfSlot
  split <;> omega

theorem channelOfSlot_inj {i j : Nat} (hi : i ≠ 18) (hj : j ≠ 18) : channelOfSlot i = channelOfSlot j ↔ i = j := by
  unfold channelOfSlot
  split <;> split <;> omega

theorem loadSlot_of_ne (d : Link) {j : Nat} (h : j ≠ 18) : loadSlot d j = d.ch[channelOfSlot j]?.getD 0#32 := by
  rw [loadSlot, if_neg h, channelOfSlot]
  split <;> rfl

theorem storeSlot_of_ne (d : Link) {i : Nat} (w : Word) (h : i ≠ 18) :
    storeSlot d i w = { d with ch := d.ch.setIfInBounds (channelOfSlot i) w } := by
  rw [storeSlot, if_neg h, channelOfSlot]
  split <;> rfl

theorem storeSlot_calib (d : Link) (w : Word) : storeSlot d 18 w = { d with calib := w } := rfl

/-- Two slots are the same storage only when they are the same slot (R138). -/
theorem loadSlot_storeSlot (d : Link) {i j : Nat} (w : Word) (hi : i < 37) :
    loadSlot (storeSlot d i w) j = if i = j then w else loadSlot d j := by
  by_cases hi18 : i = 18 <;> by_cases hj18 : j = 18
  · rw [hi18, hj18, if_pos rfl, storeSlot_calib, loadSlot_calib]
  · rw [hi18, if_neg (Ne.symm hj18), storeSlot_calib, loadSlot_of_ne _ hj18, loadSlot_of_ne _ hj18]
  · rw [hj18, if_neg hi18, storeSlot_of_ne _ _ hi18, loadSlot_calib, loadSlot_calib]
  · rw [storeSlot_of_ne _ _ hi18, loadSlot_of_ne _ hj18, loadSlot_of_ne _ hj18, Vector.getElem?_setIfInBounds]
    by_cases hij : i = j
    · rw [if_pos hij, if_pos ((channelOfSlot_inj hi18 hj18).2 hij), if_pos (channelOfSlot_lt hi), Option.getD_some]
    · rw [if_neg hij, if_neg (mt (channelOfSlot_inj hi18 hj18).1 hij)]

/-- Settles O28: stores and loads by the storage of each slot. -/
theorem slotsAreStorage : Obligations.SlotsAreStorage := fun d _ _ w hi _ =>
  ⟨loadSlot_storeSlot d w hi, loadSlot_of_lt d, loadSlot_calib d, loadSlot_of_gt d⟩

/-- The slots stored in turn hold their words, and the others are left. -/
theorem loadSlot_storeSlots (f : Nat → Word) {n : Nat} (hn : n ≤ 37) (d : Link) (j : Nat) :
    loadSlot (storeSlots f n d) j = if j < n then f j else loadSlot d j := by
  induction n with
  | zero => rfl
  | succ n ih =>
    rw [storeSlots, loadSlot_storeSlot _ _ (by omega), ih (by omega)]
    obtain hlt | rfl | hgt := Nat.lt_trichotomy j n
    · rw [if_neg (by omega), if_pos hlt, if_pos (by omega)]
    · rw [if_pos rfl, if_pos (Nat.lt_succ_self j)]
    · rw [if_neg (by omega), if_neg (by omega), if_neg (by omega)]

/-- Storing slots writes the channels and the calib channel and nothing else (R138). -/
theorem storeSlots_frame (f : Nat → Word) (n : Nat) (d : Link) :
    storeSlots f n d = { d with ch := (storeSlots f n d).ch, calib := (storeSlots f n d).calib } := by
  induction n with
  | zero => rfl
  | succ n ih =>
    rw [storeSlots]
    by_cases h : n = 18
    · rw [h, storeSlot_calib, ← h]
      exact congrArg (fun l : Link => { l with calib := f n }) ih
    · rw [storeSlot_of_ne _ _ h]
      exact congrArg (fun l : Link => { l with ch := l.ch.setIfInBounds (channelOfSlot n) (f n) }) ih

/-- The slots of a whole record, as channels: slot 18 lies between channels 17 and 18 (R138). -/
theorem storeSlots_all (f : Nat → Word) (d : Link) :
    storeSlots f 37 d = { d with ch := Vector.ofFn fun c => f (if c.val < 18 then c else c + 1), calib := f 18 } := by
  have hslot (j : Nat) (hj : j < 37) : loadSlot (storeSlots f 37 d) j = f j := by
    rw [loadSlot_storeSlots f (Nat.le_refl 37), if_pos hj]
  have hcalib : (storeSlots f 37 d).calib = f 18 := hslot 18 (by decide)
  have hch : (storeSlots f 37 d).ch = Vector.ofFn fun c : Fin 36 => f (if c.val < 18 then c else c + 1) := by
    ext c hc
    rw [Vector.getElem_ofFn]
    by_cases hlt : c < 18
    · rw [← loadSlot_of_lt _ hlt, hslot c (by omega), if_pos hlt]
    · have h := hslot (c + 1) (by omega)
      rw [loadSlot_of_gt _ (by omega), Nat.add_sub_cancel, Vector.getElem?_eq_getElem hc, Option.getD_some] at h
      rw [h, if_neg hlt]
  rw [storeSlots_frame, hch, hcalib]

/-! ### A whole DAQ link frame -/

theorem wordAt_spanWords {s : State} {i : Nat} (h : i < s.spanLen) : wordAt (spanWords s) i = spanWord s i :=
  Memory.getD_words s.ibuf s.spanBase s.spanLen i h

/-- The leading nibble as a number (R137). -/
theorem leadBad_eq (h : Word) : leadBad (h.extractLsb' 28 4) = decide (h.toNat / 2 ^ 28 ≠ 0b1111) := by
  have hlt : h.toNat / 2 ^ 28 < 2 ^ 4 := Nat.div_lt_of_lt_mul h.isLt
  have htop : (h.extractLsb' 28 4).toNat = h.toNat / 2 ^ 28 := by
    rw [BitVec.extractLsb'_toNat, Nat.shiftRight_eq_div_pow, Nat.mod_eq_of_lt hlt]
  simp only [leadBad, ne_eq, ← BitVec.toNat_inj, htop, BitVec.toNat_ofNat, Nat.reducePow, Nat.reduceMod]

/-- The event type as a number (R137). -/
theorem eventType_eq_iff (h : Word) {n : Nat} (hn : n < 16) :
    h.extractLsb' 0 4 = BitVec.ofNat 4 n ↔ h.toNat % 16 = n := by
  rw [← BitVec.toNat_inj, BitVec.extractLsb'_toNat, BitVec.toNat_ofNat, Nat.shiftRight_zero, Nat.mod_eq_of_lt hn]

/-- The flags that the order of R63 does not move. -/
theorem headerFlags_fixed (o : DaqFlagOrder) (lead : BitVec 4) (f6 f5 f4 : Bool) (evt : BitVec 4) (b : Bool) :
    (headerFlags o lead f6 f5 f4 evt b)[0] = leadBad lead ∧ (headerFlags o lead f6 f5 f4 evt b)[1] = b
      ∧ (headerFlags o lead f6 f5 f4 evt b)[3] = f5 ∧ (headerFlags o lead f6 f5 f4 evt b)[5] = eventTypeBad evt := by
  cases o <;> exact ⟨rfl, rfl, rfl, rfl⟩

/-- The CRC word's check replaces flag 1 of the header's flags and leaves the others (R63, R143). -/
theorem headerFlags_set_one (o : DaqFlagOrder) (lead : BitVec 4) (f6 f5 f4 : Bool) (evt : BitVec 4) (b c : Bool) :
    (headerFlags o lead f6 f5 f4 evt b).set 1 c = headerFlags o lead f6 f5 f4 evt c := by
  cases o <;> rfl

/-- The record of a frame, field by field (R135). -/
theorem daqRecord_eq (pr : Params) (ws : List Word) :
    daqRecord pr ws
      = { bx := (wordAt ws 0).extractLsb' 16 12
          event := (wordAt ws 0).extractLsb' 10 6
          orbit := (wordAt ws 0).extractLsb' 7 3
          corruption :=
            headerFlags pr.daqFlagOrder ((wordAt ws 0).extractLsb' 28 4) ((wordAt ws 0).getLsbD 6)
              ((wordAt ws 0).getLsbD 5) ((wordAt ws 0).getLsbD 4) ((wordAt ws 0).extractLsb' 0 4)
              (daqCrcFlag ws (wordAt ws 39))
          evtFlag := (wordAt ws 0).extractLsb' 0 4
          firstEvent := decide ((wordAt ws 0).extractLsb' 0 4 = 0b0010#4)
          adcCm0 := (wordAt ws 1).extractLsb' 10 10
          adcCm1 := (wordAt ws 1).extractLsb' 0 10
          ch := Vector.ofFn fun c => wordAt ws (2 + if c.val < 18 then c.val else c.val + 1)
          calib := wordAt ws 20
          crcWord := wordAt ws 39
          stat := 0#3
          ham := 0#3
          isEmpty := false
          chmap := 0#37
          code := Vector.replicate 37 0#4
          nwords := 40 } := by
  rw [daqRecord, storeSlots_all]
  simp only [applyDaqCrc, applyDaqCm, applyDaqHdr, headerFlags_set_one]
  rfl

theorem exec_daqFrom_of_bad_length {s : State} (h : Ready s) (hl : s.spanLen ≠ 40) :
    exec .daqFrom s = .next (abort .daq 0x14#6 ⟨.badLength, s.spanLen⟩ s) := by
  rw [exec, execDaqFrom, onSpan_of_ready h, daqFrom, length_spanWords, if_pos hl]
  rfl

/-- On a whole frame the record is built, and its header's flags give the warning (R135). -/
theorem exec_daqFrom_of_whole {s : State} (h : Ready s) (hl : s.spanLen = 40) {d : Link}
    (hd : d = daqRecord s.params (spanWords s)) :
    exec .daqFrom s = .next { s with daq := d, log := s.log.setHdrWarn (d.corruption[0] || d.corruption[5]) } := by
  subst hd
  rw [exec, execDaqFrom, onSpan_of_ready h, daqFrom, length_spanWords, if_neg (not_not.2 hl), daqRecord_eq]
  simp only [← daqWarn_headerFlags]
  rfl

/-- Settles O27: the record is the one `daqRecord_eq` writes out, over the span's 40 words. -/
theorem daqFromBuildsRecord : Obligations.DaqFromBuildsRecord := by
  intro s hr
  refine ⟨rfl, fun hl => ?badLength, fun hl => ?whole⟩
  case badLength =>
    exact takesError_of_abort (e := ⟨.badLength, s.spanLen⟩) (exec_daqFrom_of_bad_length hr hl)
  case whole =>
    refine ⟨_, exec_daqFrom_of_whole hr hl rfl, ?_⟩
    have hword (i : Nat) (hi : i < 40) : wordAt (spanWords s) i = spanWord s i := wordAt_spanWords (hl ▸ hi)
    rw [daqRecord_eq, hword 0 (by decide), hword 1 (by decide), hword 20 (by decide), hword 39 (by decide),
      daqCrcFlag_spanWords hl]
    have hevt (n : Nat) (hn : n < 16) := eventType_eq_iff (spanWord s 0) hn
    obtain ⟨hlead, hcrc, hf5, htype⟩ :=
      headerFlags_fixed s.params.daqFlagOrder ((spanWord s 0).extractLsb' 28 4) ((spanWord s 0).getLsbD 6)
        ((spanWord s 0).getLsbD 5) ((spanWord s 0).getLsbD 4) ((spanWord s 0).extractLsb' 0 4)
        (decide (crc32Of ((List.range 39).map fun k => spanWord s k) ≠ spanWord s 39))
    refine ⟨hlead.trans (leadBad_eq _), rfl, rfl, rfl, hf5, fun ho => ?to234, fun ho => ?to432, rfl, ?firstEvent,
      htype.trans ?eventType, rfl, rfl, fun c hc => ?channels, rfl, rfl, hcrc, rfl, rfl, rfl, rfl, rfl, rfl⟩
    case to234 => rw [ho]; exact ⟨rfl, rfl⟩
    case to432 => rw [ho]; exact ⟨rfl, rfl⟩
    case firstEvent => exact decide_eq_decide.2 (hevt 2 (by decide))
    case eventType =>
      rw [eventTypeBad_eq]
      exact decide_eq_decide.2 (and_congr (not_congr (hevt 2 (by decide))) (not_congr (hevt 5 (by decide))))
    case channels =>
      rw [Vector.getElem_ofFn]
      split
      · exact hword (2 + c) (by omega)
      · rw [hword (2 + (c + 1)) (by omega), show 2 + (c + 1) = 3 + c by omega]

end Sys2Proof.Machine

/-! PROOFS of the family 43_triggerlink: the record of a trigger link frame (R160 to R162), and the compressed and the
linearised sums of its data words (R164 to R167). -/

namespace Sys2Proof.Machine

/-! ### A whole trigger link frame -/

/-- A vector of four is its four entries. -/
theorem vector_four_eq {α : Type} (v : Vector α 4) : v = #v[v[0], v[1], v[2], v[3]] := by
  ext b hb
  obtain rfl | rfl | rfl | rfl : b = 0 ∨ b = 1 ∨ b = 2 ∨ b = 3 := by omega
  all_goals rfl

/-- Four stores in turn fill a vector of four. -/
theorem set_zero_to_three {α : Type} (v : Vector α 4) (f : Nat → α) :
    (((v.set 0 (f 0)).set 1 (f 1)).set 2 (f 2)).set 3 (f 3) = Vector.ofFn fun b => f b.val := by
  rw [vector_four_eq v]
  rfl

/-- The record of a frame, field by field (R160, R162). -/
theorem trigRecord_eq (pr : Params) (ws : List Word) :
    trigRecord pr ws
      = { softHeader := wordAt ws 0
          data := Vector.ofFn fun b => wordAt ws (1 + b.val)
          syncBad := Vector.ofFn fun b => decide ((wordAt ws (1 + b.val)).extractLsb' 28 4 ∉ pr.trigSyncSet) } := by
  have hdata := set_zero_to_three Trigf.zero.data fun b => wordAt ws (1 + b)
  have hsync := set_zero_to_three Trigf.zero.syncBad
    fun b => decide ((wordAt ws (1 + b)).extractLsb' 28 4 ∉ pr.trigSyncSet)
  rw [← hdata, ← hsync, trigRecord, applyTrigData_of_lt pr (by decide), applyTrigData_of_lt pr (by decide),
    applyTrigData_of_lt pr (by decide), applyTrigData_of_lt pr (by decide)]

/-- The warning is that of any of the four flags (R160). -/
theorem anySyncBad_eq (t : Trigf) : anySyncBad t = t.syncBad.toList.any id := by
  have hlist : t.syncBad.toList = [t.syncBad[0], t.syncBad[1], t.syncBad[2], t.syncBad[3]] :=
    congrArg Vector.toList (vector_four_eq t.syncBad)
  simp only [hlist, anySyncBad, List.any_cons, List.any_nil, id, Bool.or_false, Bool.or_assoc]

theorem exec_trigFrom_of_bad_length {s : State} (h : Ready s) (hl : s.spanLen ≠ 5) :
    exec .trigFrom s = .next (abort .trig 0x15#6 ⟨.badLength, s.spanLen⟩ s) := by
  rw [exec, execTrigFrom, onSpan_of_ready h, trigFrom, length_spanWords, if_pos hl]
  rfl

/-- On a whole frame the record is built, and its flags give the warning (R160). -/
theorem exec_trigFrom_of_whole {s : State} (h : Ready s) (hl : s.spanLen = 5) {t : Trigf}
    (ht : t = trigRecord s.params (spanWords s)) :
    exec .trigFrom s = .next { s with trig := t, log := s.log.setSyncWarn (t.syncBad.toList.any id) } := by
  subst ht
  rw [exec, execTrigFrom, onSpan_of_ready h, trigFrom, length_spanWords, if_neg (not_not.2 hl), anySyncBad_eq]
  rfl

/-- Settles O30: the record is the one `trigRecord_eq` writes out, over the span's 5 words. -/
theorem trigFromBuildsRecord : Obligations.TrigFromBuildsRecord := by
  intro s h
  refine ⟨rfl, fun hl => ?badLength, fun hl => ⟨_, exec_trigFrom_of_whole h hl rfl, ?record⟩⟩
  case badLength =>
    exact takesError_of_abort (e := ⟨.badLength, s.spanLen⟩) (exec_trigFrom_of_bad_length h hl)
  case record =>
    have hword (i : Nat) (hi : i < 5) : wordAt (spanWords s) i = spanWord s i := wordAt_spanWords (hl ▸ hi)
    rw [trigRecord_eq]
    refine ⟨hword 0 (by decide), fun b hb => ?_⟩
    simp only [Vector.getElem_ofFn, hword (1 + b) (by omega), decide_eq_true_eq, true_and, iff_self]

/-! ### The sums of a data word -/

/-- The compressed sum as a number: the 7 bits at the place the order of the parameter gives it (R164). -/
theorem toNat_compressedSum (o : TrigSumOrder) (w : Word) (iSum : Nat) :
    (compressedSum o w iSum).toNat
      = w.toNat / 2 ^ (if o = .msbFirst then 21 - 7 * iSum else 7 * iSum) % 128 := by
  have hfield (n : Nat) : ((w >>> n).setWidth 7).toNat = w.toNat / 2 ^ n % 128 := by
    rw [BitVec.toNat_setWidth, BitVec.toNat_ushiftRight, Nat.shiftRight_eq_div_pow]
  cases o with
  | msbFirst => exact hfield (21 - 7 * iSum)
  | lsbFirst => exact hfield (7 * iSum)

/-- The linearisation in the arithmetic of the rule: mantissa times a power of two (R166). -/
theorem linearise_eq (c : Nat) : linearise c = if c < 8 then c else (8 + c % 8) * 2 ^ (c / 8 - 1) := by
  rw [linearise, Nat.shiftLeft_eq]

theorem exec_trigCsum (s : State) : exec .trigCsum s = sumOp 0x16#6 s fun c => c.setWidth 32 := rfl

theorem exec_trigLsum (s : State) :
    exec .trigLsum s = sumOp 0x17#6 s fun c => BitVec.ofNat 32 (linearise c.toNat) := rfl

section
variable {s : State} (h : Idle s)
include h

/-- With both indices in range `RES` alone is written (R164, R167). -/
theorem sumOp_of_lt (h0 : arg0Nat s < 4) (h1 : arg1Nat s < 4) (op : BitVec 6) (f : BitVec 7 → Word) :
    sumOp op s f
      = .next { s with res := f (compressedSum s.params.trigSumOrder s.trig.data[arg1Nat s] (arg0Nat s)) } := by
  rw [sumOp, whenIdle_of_idle h, if_neg (by omega), if_neg (by omega), Vector.getElem?_eq_getElem h1,
    Option.getD_some]

/-- The index of the sum is the first one tested (R164). -/
theorem sumOp_of_bad_sum (h0 : 4 ≤ arg0Nat s) (op : BitVec 6) (f : BitVec 7 → Word) :
    sumOp op s f = .next (abort .res op ⟨.badFormat, arg0Nat s⟩ s) := by
  rw [sumOp, whenIdle_of_idle h, if_pos (by omega)]

theorem sumOp_of_bad_bx (h0 : arg0Nat s < 4) (h1 : 4 ≤ arg1Nat s) (op : BitVec 6) (f : BitVec 7 → Word) :
    sumOp op s f = .next (abort .res op ⟨.badFormat, arg1Nat s⟩ s) := by
  rw [sumOp, whenIdle_of_idle h, if_neg (by omega), if_pos (by omega)]

end

/-- An error of the shared body is the structural error of both operations (R303). -/
theorem takesError_of_sumOp {s : State} {e : Raise} (h : ∀ op f, sumOp op s f = .next (abort .res op e s)) :
    TakesError .trigCsum s e.kind e.info ∧ TakesError .trigLsum s e.kind e.info :=
  ⟨takesError_of_abort ((exec_trigCsum s).trans (h _ _)), takesError_of_abort ((exec_trigLsum s).trans (h _ _))⟩

/-- Settles O31: by the three cases of `sumOp`, which the two operations share: both indices in range, the index of the
sum out of range, that of the data word. -/
theorem trigSumsOfData : Obligations.TrigSumsOfData := by
  intro s h
  refine ⟨rfl, rfl, fun h0 h1 => ?sums, fun h0 => ?badSum, fun h0 h1 => ?badBx⟩
  case sums =>
    intro sh c
    have hc : (compressedSum s.params.trigSumOrder s.trig.data[arg1Nat s] (arg0Nat s)).toNat = c :=
      toNat_compressedSum _ _ _
    constructor
    · rw [exec_trigCsum, sumOp_of_lt h h0 h1, ← BitVec.ofNat_toNat, hc]
    · rw [exec_trigLsum, sumOp_of_lt h h0 h1, hc, linearise_eq]
  case badSum => exact takesError_of_sumOp (sumOp_of_bad_sum h h0)
  case badBx => exact takesError_of_sumOp (sumOp_of_bad_bx h h0 h1)

end Sys2Proof.Machine

/-! PROOFS of the family 44_erx_subpacket, first part: a channel record read against the layouts of R75 to R82, the loop
over the slots, and `ERX_UNPACK` case by case (R175 to R191). -/

namespace Sys2Proof.Machine

/-! ### Reads of a word and reads of a read -/

/-- A value with the bits of a read is that read (R101). -/
theorem eq_bitRead {ws : List Word} {q n : Nat} {v : BitVec n}
    (h : ∀ k, k < n → v.getLsbD (n - 1 - k) = bitAt ws (q + k)) : v = bitRead ws q n := by
  apply BitVec.eq_of_getLsbD_eq
  intro j hj
  rw [show j = n - 1 - (n - 1 - j) by omega, h _ (by omega), getLsbD_bitRead ws q n (by omega)]

/-- A field of a span's word is a read of the bits it has there (R100). -/
theorem extractLsb'_wordAt (ws : List Word) (i : Nat) {k l : Nat} (h : k + l ≤ 32) :
    (wordAt ws i).extractLsb' k l = bitRead ws (32 * i + (32 - l - k)) l := by
  refine eq_bitRead fun j hj => ?_
  rw [BitVec.getLsbD_extractLsb', decide_eq_true (by omega), Bool.true_and, bitAt, wordAt,
    show (32 * i + (32 - l - k) + j) / 32 = i by omega,
    show 31 - (32 * i + (32 - l - k) + j) % 32 = k + (l - 1 - j) by omega]

/-- A field of a read is a read of its own (R101). -/
theorem extractLsb'_bitRead (ws : List Word) (q : Nat) {n k l : Nat} (h : k + l ≤ n) :
    (bitRead ws q n).extractLsb' k l = bitRead ws (q + (n - l - k)) l := by
  refine eq_bitRead fun j hj => ?_
  rw [BitVec.getLsbD_extractLsb', decide_eq_true (by omega), Bool.true_and,
    show k + (l - 1 - j) = n - 1 - (n - l - k + j) by omega, getLsbD_bitRead ws q n (by omega), Nat.add_assoc]

/-! ### Channel records -/

/-- The four bits peeked at a position (R175). -/
theorem getLsbD_peek (ws : List Word) (q : Nat) :
    (bitRead ws q 4).getLsbD 3 = bitAt ws q ∧ (bitRead ws q 4).getLsbD 2 = bitAt ws (q + 1)
      ∧ (bitRead ws q 4).getLsbD 1 = bitAt ws (q + 2) ∧ (bitRead ws q 4).getLsbD 0 = bitAt ws (q + 3) :=
  ⟨getLsbD_bitRead ws q 4 (k := 0) (by decide), getLsbD_bitRead ws q 4 (k := 1) (by decide),
    getLsbD_bitRead ws q 4 (k := 2) (by decide), getLsbD_bitRead ws q 4 (k := 3) (by decide)⟩

/-- The word of the record at a position is the one its class gives the bits after its code (R182 to R188). -/
theorem recordSpec_word (ws : List Word) (q : Nat) :
    (recordSpec ws q).2
      = recordWord (classify (bitRead ws q 4))
          ((bitRead ws (q + (classify (bitRead ws q 4)).codeBits)
            ((classify (bitRead ws q 4)).recordBits - (classify (bitRead ws q 4)).codeBits)).setWidth 32) := by
  obtain ⟨h0, h1, h2, h3⟩ := getLsbD_peek ws q
  simp only [recordSpec, classify, h0, h1, h2, h3]
  split <;>
    simp only [*, recordWord, RecClass.codeBits, RecClass.recordBits, slotA, slotM, slotT,
      BitVec.extractLsb'_setWidth_of_le, extractLsb'_bitRead, Nat.reduceSub, Nat.reduceAdd, Nat.reduceLeDiff,
      Nat.add_assoc]

/-- The code of the record at a position has the width of its class's code (R75). -/
theorem codeSpec_eq (ws : List Word) (q : Nat) : codeSpec ws q = (classify (bitRead ws q 4)).codeBits := by
  obtain ⟨h0, h1, -, -⟩ := getLsbD_peek ws q
  rw [codeSpec, ← h0, ← h1]
  generalize bitRead ws q 4 = c
  revert c
  decide

theorem recordSpec_length_le (ws : List Word) (q : Nat) : (recordSpec ws q).1 ≤ 32 := by
  have h := classify_recordBits (classify (bitRead ws q 4))
  rw [recordSpec_length]
  omega

/-- The class that is logged is the one of code `10` (R187, R192). -/
theorem recordInvalid_classify (c : BitVec 4) : recordInvalid (classify c) = (c.extractLsb' 2 2 == 0b10#2) := by
  revert c
  decide

section
variable {ws : List Word} {q : Nat}

/-- A record within the span: its four bits, its word and the position after it (R175, R181 to R188). -/
theorem readRecord_of_within (h : q + (recordSpec ws q).1 ≤ 32 * ws.length) :
    readRecord ws q
      = .ok ⟨bitRead ws q 4, (recordSpec ws q).2, (bitRead ws q 4).extractLsb' 2 2 == 0b10#2,
          q + (recordSpec ws q).1⟩ := by
  have hlook := four_le_recordBits (classify (bitRead ws q 4))
  rw [recordSpec_length] at h
  simp only [readRecord]
  rw [if_neg (by omega), if_neg (by omega), recordSpec_word, recordSpec_length, recordInvalid_classify]

/-- Not even the four bits of the code are there: the peek raises (R191). -/
theorem readRecord_of_look_short (h : 32 * ws.length < q + 4) : readRecord ws q = .error ⟨.lengthError, q⟩ :=
  if_pos h

/-- The four bits are there, the record is not: the read after the code raises (R191). -/
theorem readRecord_of_rest_short (hlook : q + 4 ≤ 32 * ws.length) (h : 32 * ws.length < q + (recordSpec ws q).1) :
    readRecord ws q = .error ⟨.lengthError, q + codeSpec ws q⟩ := by
  rw [recordSpec_length] at h
  simp only [readRecord]
  rw [if_neg (by omega), if_pos h, codeSpec_eq]

end

/-! ### The positions of the records -/

theorem slotPos_of_present {s : State} {k : Nat} (h : present s.params.chmapOrder (chmapOf s) k = true) :
    slotPos s (k + 1) = slotPos s k + (recordSpec (spanWords s) (slotPos s k)).1 := by
  rw [slotPos, if_pos h]

theorem slotPos_of_absent {s : State} {k : Nat} (h : present s.params.chmapOrder (chmapOf s) k = false) :
    slotPos s (k + 1) = slotPos s k := by
  rw [slotPos, h]
  rfl

theorem slotPos_mono (s : State) {j k : Nat} (h : j ≤ k) : slotPos s j ≤ slotPos s k :=
  monotone_nat_of_le_succ (fun _ => Nat.le_add_right _ _) h

/-- A slot takes at most 32 bits (R190). -/
theorem slotPos_le (s : State) (k : Nat) : slotPos s k ≤ 64 + 32 * k := by
  induction k with
  | zero => exact Nat.le_refl _
  | succ k ih =>
    have hlen := recordSpec_length_le (spanWords s) (slotPos s k)
    rw [slotPos]
    split <;> omega

/-! ### The channels that hold the slots -/

/-- The 36 channels that hold the slots `f 0 .. f 36` but for slot 18, which is the calib channel (R138). -/
def slotChannels (f : Nat → Word) : Vector Word 36 := Vector.ofFn fun c => f (if c.val < 18 then c else c + 1)

theorem storeSlots_channels (f : Nat → Word) (d : Link) :
    storeSlots f 37 d = { d with ch := slotChannels f, calib := f 18 } :=
  storeSlots_all f d

theorem loadSlot_of_channels (d : Link) (f : Nat → Word) (hch : d.ch = slotChannels f) (hcalib : d.calib = f 18)
    {k : Nat} (hk : k < 37) : loadSlot d k = f k := by
  have hstored := loadSlot_storeSlots f (Nat.le_refl 37) d k
  rw [if_pos hk, storeSlots_channels] at hstored
  rw [← hstored, loadSlot, loadSlot, hch, hcalib]

/-! ### The slots filled -/

/-- The word slot `k` is given: that of its record, or 0 (R175). -/
def slotWord (s : State) (k : Nat) : Word :=
  if present s.params.chmapOrder (chmapOf s) k then (recordSpec (spanWords s) (slotPos s k)).2 else 0#32

/-- The code slot `k` is given: the four bits at the start of its record, or 0 (R175). -/
def slotCode (s : State) (k : Nat) : BitVec 4 :=
  if present s.params.chmapOrder (chmapOf s) k then bitRead (spanWords s) (slotPos s k) 4 else 0#4

/-- The codes once the first `n` slots are filled. -/
def filledCodes (s : State) (n : Nat) : Vector (BitVec 4) 37 :=
  Vector.ofFn fun k => if k.val < n then slotCode s k else 0#4

/-- A record with its first `n` slots filled, which had no code before (R175). -/
def fillSlots (s : State) (n : Nat) (d : Link) : Link :=
  { storeSlots (slotWord s) n d with code := filledCodes s n }

theorem getElem_filledCodes (s : State) (n : Nat) {k : Nat} (hk : k < 37) :
    (filledCodes s n)[k] = if k < n then slotCode s k else 0#4 := by
  rw [filledCodes, Vector.getElem_ofFn]

theorem filledCodes_zero (s : State) : filledCodes s 0 = Vector.replicate 37 0#4 := by
  ext1 k hk
  rw [getElem_filledCodes s 0 hk, if_neg (Nat.not_lt_zero k), Vector.getElem_replicate]

theorem filledCodes_succ (s : State) (n : Nat) :
    filledCodes s (n + 1) = (filledCodes s n).setIfInBounds n (slotCode s n) := by
  ext1 k hk
  rw [Vector.getElem_setIfInBounds, getElem_filledCodes s _ hk, getElem_filledCodes s _ hk]
  obtain hlt | rfl | hgt := Nat.lt_trichotomy k n
  · rw [if_pos (by omega), if_neg (by omega), if_pos hlt]
  · rw [if_pos (by omega), if_pos rfl]
  · rw [if_neg (by omega), if_neg (by omega), if_neg (by omega)]

theorem storeSlot_withCodes (d : Link) (n : Nat) (w : Word) (c : Vector (BitVec 4) 37) :
    storeSlot { d with code := c } n w = { storeSlot d n w with code := c } := by
  unfold storeSlot
  split
  · rfl
  split <;> rfl

theorem fillSlots_zero (s : State) {d : Link} (h : d.code = Vector.replicate 37 0#4) : fillSlots s 0 d = d := by
  rw [fillSlots, filledCodes_zero, ← h]
  rfl

theorem fillSlots_succ (s : State) (n : Nat) (d : Link) :
    fillSlots s (n + 1) d = storeSlot (storeCode (fillSlots s n d) n (slotCode s n)) n (slotWord s n) := by
  simp only [fillSlots, filledCodes_succ, storeSlots, storeCode, storeSlot_withCodes]

/-- The codes of the slots not reached yet are 0, so an absent slot's is. -/
theorem fillSlots_succ_of_absent {s : State} {n : Nat} (d : Link)
    (h : present s.params.chmapOrder (chmapOf s) n = false) :
    fillSlots s (n + 1) d = storeSlot (fillSlots s n d) n 0#32 := by
  have hcode : slotCode s n = 0#4 := by rw [slotCode, h]; rfl
  have hword : slotWord s n = 0#32 := by rw [slotWord, h]; rfl
  have hkeep : filledCodes s (n + 1) = filledCodes s n := by
    rw [filledCodes_succ, hcode]
    ext1 k hk
    rw [Vector.getElem_setIfInBounds, getElem_filledCodes s n hk]
    split
    · rw [if_neg (by omega)]
    · rfl
  rw [fillSlots, hkeep, storeSlots, ← storeSlot_withCodes, hword, fillSlots]

theorem fillSlots_succ_of_present {s : State} {n : Nat} (d : Link) {r : Rec}
    (h : present s.params.chmapOrder (chmapOf s) n = true) (hc : r.code = bitRead (spanWords s) (slotPos s n) 4)
    (hw : r.word = (recordSpec (spanWords s) (slotPos s n)).2) :
    fillSlots s (n + 1) d = storeRecord (fillSlots s n d) n r := by
  rw [fillSlots_succ, slotCode, slotWord, if_pos h, if_pos h, storeRecord, hc, hw]

theorem fillSlots_frame (s : State) (n : Nat) (d : Link) :
    fillSlots s n d
      = { d with
          ch := (storeSlots (slotWord s) n d).ch, calib := (storeSlots (slotWord s) n d).calib,
          code := filledCodes s n } :=
  congrArg (fun l : Link => { l with code := filledCodes s n }) (storeSlots_frame (slotWord s) n d)

/-! ### The known invalid code -/

theorem hasInvalidCode_iff {d : Link} :
    hasInvalidCode d = true ↔ ∃ (k : Nat) (hk : k < 37), d.code[k].extractLsb' 2 2 = 0b10#2 := by
  simp only [hasInvalidCode, List.any_eq_true, Vector.mem_toList_iff, Vector.mem_iff_getElem, beq_iff_eq]
  constructor
  · rintro ⟨c, ⟨k, hk, rfl⟩, hc⟩
    exact ⟨k, hk, hc⟩
  · rintro ⟨k, hk, hc⟩
    exact ⟨_, ⟨k, hk, rfl⟩, hc⟩

/-- One of the first `n` slots has the known invalid code (R187, R192). -/
def invalidBelow (s : State) (n : Nat) : Bool :=
  (List.range n).any fun k => (slotCode s k).extractLsb' 2 2 == 0b10#2

theorem invalidBelow_succ (s : State) (n : Nat) :
    invalidBelow s (n + 1) = (invalidBelow s n || (slotCode s n).extractLsb' 2 2 == 0b10#2) := by
  simp [invalidBelow, List.range_succ]

theorem hasInvalidCode_of_codes {d : Link} {s : State} (h : ∀ k (hk : k < 37), d.code[k] = slotCode s k) :
    hasInvalidCode d = invalidBelow s 37 := by
  rw [Bool.eq_iff_iff, hasInvalidCode_iff]
  simp only [invalidBelow, List.any_eq_true, List.mem_range, beq_iff_eq]
  constructor
  · rintro ⟨k, hk, hc⟩
    exact ⟨k, hk, h k hk ▸ hc⟩
  · rintro ⟨k, hk, hc⟩
    exact ⟨k, hk, (h k hk).symm ▸ hc⟩

theorem Log.setInvalidCode_setInvalidCode (l : Log) (b c : Bool) :
    (l.setInvalidCode b).setInvalidCode c = l.setInvalidCode (b || c) := by
  simp only [Log.setInvalidCode, Bool.or_assoc]

/-! ### The loop over the slots -/

/-- The loop in the middle: as long as the records lie within the span it has filled the slots passed, logged their
codes and moved the cursor to the start of the next record (R175, R189). -/
theorem unpackSlots_reaches {s : State} {d : Link} (hm : d.chmap = chmapOf s) (hd : d.code = Vector.replicate 37 0#4)
    (c : Acc) {k : Nat} (hk : k ≤ 37) (h : slotPos s k ≤ 32 * s.spanLen) :
    unpackSlots s.params.chmapOrder (spanWords s) 37 0 64 d c
      = unpackSlots s.params.chmapOrder (spanWords s) (37 - k) k (slotPos s k) (fillSlots s k d)
          { c with log := c.log.setInvalidCode (invalidBelow s k) } := by
  induction k with
  | zero =>
    rw [fillSlots_zero s hd, show invalidBelow s 0 = false from rfl, Log.setInvalidCode_false]
    rfl
  | succ k ih =>
    have hmap : (fillSlots s k d).chmap = chmapOf s := by rw [fillSlots_frame, ← hm]
    rw [ih (by omega) ((slotPos_mono s k.le_succ).trans h), show 37 - k = 37 - (k + 1) + 1 by omega, unpackSlots, hmap]
    by_cases hp : present s.params.chmapOrder (chmapOf s) k = true
    · have hwithin := h
      rw [slotPos_of_present hp, ← length_spanWords] at hwithin
      have hcode : slotCode s k = bitRead (spanWords s) (slotPos s k) 4 := by rw [slotCode, if_pos hp]
      rw [if_pos hp, readRecord_of_within hwithin]
      simp only [Log.setInvalidCode_setInvalidCode]
      rw [← fillSlots_succ_of_present d hp rfl rfl, slotPos_of_present hp, invalidBelow_succ, hcode]
    · have ha : present s.params.chmapOrder (chmapOf s) k = false := Bool.eq_false_iff.2 hp
      have hcode : slotCode s k = 0#4 := by rw [slotCode, if_neg hp]
      rw [if_neg hp, ← fillSlots_succ_of_absent d ha, slotPos_of_absent ha, invalidBelow_succ, hcode,
        show ((0#4).extractLsb' 2 2 == 0b10#2) = false from rfl, Bool.or_false]

/-- The loop raises where the record of a present slot does (R191). -/
theorem unpackSlots_of_error {s : State} {d : Link} (hm : d.chmap = chmapOf s)
    (hd : d.code = Vector.replicate 37 0#4) (c : Acc) {k : Nat} (hk : k < 37) (h : slotPos s k ≤ 32 * s.spanLen)
    (hp : present s.params.chmapOrder (chmapOf s) k = true) {e : Raise}
    (he : readRecord (spanWords s) (slotPos s k) = .error e) :
    ∃ c', unpackSlots s.params.chmapOrder (spanWords s) 37 0 64 d c = .stop e c' := by
  have hmap : (fillSlots s k d).chmap = chmapOf s := by rw [fillSlots_frame, ← hm]
  rw [unpackSlots_reaches hm hd c hk.le h, show 37 - k = 37 - (k + 1) + 1 by omega, unpackSlots, hmap, if_pos hp, he]
  exact ⟨_, rfl⟩

/-! ### The decode of a sub-packet, case by case -/

/-- The record that a sub-packet's first word opens (R176). -/
def openRecord (w : Word) : Link :=
  applyErxHdr0 (w.extractLsb' 29 3) (w.extractLsb' 26 3) (w.getLsbD 25) (w.extractLsb' 15 10) (w.extractLsb' 5 10)
    (w.extractLsb' 0 5)

/-- Storing slots, codes, the map and the length leaves the header fields and what is not derived (R176, R197). -/
theorem erxHeaderOf_openRecord (w : Word) (ch : Vector Word 36) (calib : Word) (chmap : BitVec 37)
    (code : Vector (BitVec 4) 37) (nwords : Nat) :
    ErxHeaderOf { openRecord w with ch := ch, calib := calib, chmap := chmap, code := code, nwords := nwords } w :=
  ⟨rfl, rfl, rfl, rfl, rfl, rfl, rfl, rfl, rfl, rfl, rfl, rfl⟩

/-- An empty sub-packet is its first word (R177). -/
theorem nwords_openRecord_of_empty {w : Word} (h : w.getLsbD 25 = true) : (openRecord w).nwords = 1 := by
  rw [openRecord, h]
  rfl

/-- The record before the slots of a sub-packet that is not empty: the header and the map (R176, R178). -/
def headedRecord (w0 w1 : Word) : Link := { openRecord w0 with chmap := w0.extractLsb' 0 5 ++ w1 }

/-- The second word completes the map (R178). -/
theorem applyErxHdr1_openRecord {w : Word} (h : w.getLsbD 25 = false) (lo : Word) :
    applyErxHdr1 lo (openRecord w) = headedRecord w lo := by
  have hhi : (openRecord w).chmap.extractLsb' 32 5 = w.extractLsb' 0 5 := by
    simp only [openRecord, applyErxHdr0, h, Bool.false_eq_true, if_false]
    rw [BitVec.extractLsb'_append_eq_of_le (Nat.le_refl 32), BitVec.extractLsb'_eq_self]
  rw [applyErxHdr1, hhi, headedRecord]

/-- What follows the loop over the slots: the length is rounded up to a word (R189), an error stays. -/
def roundUp : Run (Link × Nat) → Run Link
  | .done (d, p) c => .done { d with nwords := ceilWords p } c
  | .stop e c => .stop e c

section
variable {pr : Params} {ws : List Word} {pt : Bool} (c : Acc)

theorem unpackSubpacket_of_no_word (h : ws.length = 0) : unpackSubpacket pr ws pt c = .stop ⟨.lengthError, 0⟩ c :=
  if_pos h

theorem unpackSubpacket_of_empty (h : ws.length ≠ 0) (he : (wordAt ws 0).getLsbD 25 = true) :
    unpackSubpacket pr ws pt c = .done (openRecord (wordAt ws 0)) c := by
  rw [unpackSubpacket, if_neg h]
  exact if_pos he

theorem unpackSubpacket_of_one_word (h : ws.length = 1) (he : (wordAt ws 0).getLsbD 25 = false) :
    unpackSubpacket pr ws pt c = .stop ⟨.lengthError, 1⟩ c := by
  rw [unpackSubpacket, if_neg (by omega)]
  simp only [he, Bool.false_eq_true, if_false]
  rw [if_pos h]

section
variable (h : 2 ≤ ws.length) (he : (wordAt ws 0).getLsbD 25 = false)
include h he

theorem unpackSubpacket_of_passthrough :
    unpackSubpacket pr ws true c
      = if ws.length < PtHeader.words pr.ptHeader + 37 then .stop ⟨.lengthError, ws.length⟩ c
        else
          .done
            (passthroughRecord pr.ptHeader ws (openRecord (wordAt ws 0)) (headedRecord (wordAt ws 0) (wordAt ws 1)))
            c := by
  rw [← applyErxHdr1_openRecord he, unpackSubpacket, if_neg (by omega)]
  simp only [he, Bool.false_eq_true, if_false]
  rw [if_neg (by omega), if_pos trivial, openRecord, he]

theorem unpackSubpacket_of_zeroSuppressed :
    unpackSubpacket pr ws false c
      = roundUp (unpackSlots pr.chmapOrder ws 37 0 64 (headedRecord (wordAt ws 0) (wordAt ws 1)) c) := by
  rw [← applyErxHdr1_openRecord he, unpackSubpacket, if_neg (by omega)]
  simp only [he, Bool.false_eq_true, if_false]
  rw [if_neg (by omega), openRecord, he]
  generalize unpackSlots pr.chmapOrder ws 37 0 64 _ c = run
  cases run <;> rfl

end

end

/-! ### `ERX_UNPACK` -/

section
variable {s : State} (h : Ready s)
include h

theorem exec_erxUnpack_of_done {d : Link} {c : Acc}
    (hrun : unpackSubpacket s.params (spanWords s) (argPassthrough s) s.acc = .done d c) :
    exec .erxUnpack s = .next { s.withAcc c with erx := d, erxConsumed := d.nwords, p := 32 * d.nwords } := by
  rw [exec, execErxUnpack, onSpan_of_ready h, hrun]
  rfl

/-- An error of the decode is the instruction's; the records before it have been logged (R191, R303). -/
theorem takesError_erxUnpack_of_stop {e : Raise} {c : Acc}
    (hrun : unpackSubpacket s.params (spanWords s) (argPassthrough s) s.acc = .stop e c) :
    TakesError .erxUnpack s e.kind e.info := by
  refine ⟨abort .erx 0x18#6 e (s.withAcc c), ?_, ⟨rfl, rfl, rfl⟩,
    raised_faultFrame (dst := .erx) (fun _ => ⟨rfl, rfl⟩) 0x18#6 e c⟩
  rw [exec, execErxUnpack, onSpan_of_ready h, hrun]
  rfl

end

/-- Settles O36: each word is its update of the record, the cursor past it. -/
theorem erxElementsWriteRecord : Obligations.ErxElementsWriteRecord := by
  intro s h
  refine ⟨fun stat ham isEmpty cm0 cm1 chmapHi => ⟨applyErxHdr0 stat ham isEmpty cm0 cm1 chmapHi, ?hdr0, rfl⟩,
    fun chmapLo => ?hdr1, fun slot word => ?sample⟩
  case hdr0 => rw [exec, execErxHdr0, onWord_of_ahead h]; rfl
  case hdr1 => rw [exec, execErxHdr1, onWord_of_ahead h]; rfl
  case sample => rw [exec, execPtSample, onWord_of_ahead h]

/-- The number of header words of a passthrough sub-packet, as a number (R180). -/
theorem PtHeader.words_eq (h : PtHeader) : PtHeader.words h = if h = .two then 2 else 1 := by
  cases h <;> rfl

/-- The header words of a passthrough sub-packet, then its 37 words in their slots; with one header word there is no map
(R180). -/
theorem passthroughRecord_eq (h : PtHeader) (ws : List Word) (d : Link) (m : BitVec 37) :
    passthroughRecord h ws d { d with chmap := m }
      = { d with
          ch := slotChannels fun k => wordAt ws (PtHeader.words h + k), calib := wordAt ws (PtHeader.words h + 18),
          chmap := if h = .two then m else 0#37, nwords := PtHeader.words h + 37 } := by
  cases h <;> simp only [passthroughRecord, storeSlots_channels] <;> rfl

/-- Settles O32: the empty form is the record the first word opens; the passthrough form stores the 37 words after the
header words, or raises where the span has fewer. -/
theorem erxEmptyAndPassthrough : Obligations.ErxEmptyAndPassthrough := by
  intro s hr
  refine ⟨fun hlen he => ?empty, fun hlen he hpt => ?passthrough⟩
  case empty =>
    have hw : wordAt (spanWords s) 0 = spanWord s 0 := wordAt_spanWords hlen
    have hrun := unpackSubpacket_of_empty (pr := s.params) (pt := argPassthrough s) (ws := spanWords s) s.acc
      (by rw [length_spanWords]; omega) (hw ▸ he)
    rw [hw] at hrun
    have hn := nwords_openRecord_of_empty he
    have hch : Link.zero.ch = slotChannels fun _ => 0#32 := by decide
    exact ⟨_, (exec_erxUnpack_of_done hr hrun).trans (by rw [hn]; rfl), erxHeaderOf_openRecord _ _ _ _ _ _,
      by rw [openRecord, he]; rfl, hn, rfl, fun k hk => loadSlot_of_channels _ (fun _ => 0#32) hch rfl hk⟩
  case passthrough =>
    have hw0 : wordAt (spanWords s) 0 = spanWord s 0 := wordAt_spanWords (by omega)
    have hw1 : wordAt (spanWords s) 1 = spanWord s 1 := wordAt_spanWords (by omega)
    have hrun := unpackSubpacket_of_passthrough (pr := s.params) (ws := spanWords s) s.acc
      (by rwa [length_spanWords]) (hw0 ▸ he)
    rw [hw0, hw1, length_spanWords, ← hpt, headedRecord, passthroughRecord_eq, PtHeader.words_eq] at hrun
    intro h
    refine ⟨fun hfit => ?fits, fun hshort => ?short⟩
    case fits =>
      rw [if_neg (Nat.not_lt.2 hfit)] at hrun
      refine ⟨_, exec_erxUnpack_of_done hr hrun, erxHeaderOf_openRecord _ _ _ _ _ _, rfl, rfl, rfl, fun k hk => ?_⟩
      rw [← wordAt_spanWords (show h + k < s.spanLen by omega)]
      refine loadSlot_of_channels _ (fun k => wordAt (spanWords s) (h + k)) ?_ ?_ hk <;> rfl
    case short =>
      rw [if_pos hshort] at hrun
      exact takesError_erxUnpack_of_stop hr hrun

/-- The record of a zero-suppressed sub-packet (R175). -/
def decodedRecord (s : State) : Link :=
  { headedRecord (spanWord s 0) (spanWord s 1) with
    ch := slotChannels (slotWord s), calib := slotWord s 18, code := filledCodes s 37,
    nwords := ceilWords (slotPos s 37) }

theorem fillSlots_all (s : State) :
    { fillSlots s 37 (headedRecord (spanWord s 0) (spanWord s 1)) with nwords := ceilWords (slotPos s 37) }
      = decodedRecord s := by
  rw [fillSlots, storeSlots_channels]
  rfl

theorem loadSlot_decodedRecord (s : State) {k : Nat} (hk : k < 37) : loadSlot (decodedRecord s) k = slotWord s k :=
  loadSlot_of_channels (decodedRecord s) (slotWord s) rfl rfl hk

theorem code_decodedRecord (s : State) {k : Nat} (hk : k < 37) : (decodedRecord s).code[k] = slotCode s k :=
  (getElem_filledCodes s 37 hk).trans (if_pos hk)

section
variable {s : State} (hr : Ready s) (hlen : 2 ≤ s.spanLen) (he : (spanWord s 0).getLsbD 25 = false)
  (hpt : argPassthrough s = false)
include hr hlen he hpt

/-- A zero-suppressed sub-packet whose records end within the span (R175, R189). -/
theorem exec_erxUnpack_of_within (hfit : slotPos s 37 ≤ 32 * s.spanLen) :
    exec .erxUnpack s
      = .next
          { s with
            erx := decodedRecord s, erxConsumed := ceilWords (slotPos s 37), p := 32 * ceilWords (slotPos s 37),
            log := s.log.setInvalidCode (hasInvalidCode (decodedRecord s)) } := by
  have hw0 : wordAt (spanWords s) 0 = spanWord s 0 := wordAt_spanWords (by omega)
  have hw1 : wordAt (spanWords s) 1 = spanWord s 1 := wordAt_spanWords (by omega)
  have hslots := unpackSlots_reaches (d := headedRecord (spanWord s 0) (spanWord s 1)) rfl rfl s.acc
    (Nat.le_refl 37) hfit
  rw [Nat.sub_self, unpackSlots] at hslots
  have hrun := unpackSubpacket_of_zeroSuppressed (pr := s.params) s.acc (by rwa [length_spanWords]) (hw0 ▸ he)
  rw [hw0, hw1, hslots, roundUp, fillSlots_all, ← hpt] at hrun
  rw [hasInvalidCode_of_codes fun k hk => code_decodedRecord s hk]
  exact exec_erxUnpack_of_done hr hrun

/-- The error of the read of a present slot's record is the instruction's (R191). -/
theorem takesError_erxUnpack_of_record {k : Nat} (hk : k < 37)
    (hp : present s.params.chmapOrder (chmapOf s) k = true) (hpos : slotPos s k ≤ 32 * s.spanLen) {e : Raise}
    (hread : readRecord (spanWords s) (slotPos s k) = .error e) : TakesError .erxUnpack s e.kind e.info := by
  have hw0 : wordAt (spanWords s) 0 = spanWord s 0 := wordAt_spanWords (by omega)
  have hw1 : wordAt (spanWords s) 1 = spanWord s 1 := wordAt_spanWords (by omega)
  obtain ⟨c', hslots⟩ := unpackSlots_of_error (d := headedRecord (spanWord s 0) (spanWord s 1)) rfl rfl s.acc hk hpos
    hp hread
  have hrun := unpackSubpacket_of_zeroSuppressed (pr := s.params) s.acc (by rwa [length_spanWords]) (hw0 ▸ he)
  rw [hw0, hw1, hslots, roundUp, ← hpt] at hrun
  exact takesError_erxUnpack_of_stop hr hrun

end

/-- Settles O33: the slots filled by the loop, each present one from its record. -/
theorem erxZeroSuppressedDecodes : Obligations.ErxZeroSuppressedDecodes := by
  intro s hr hlen he hpt
  refine ⟨rfl, slotPos_le s 37, fun hfit => ⟨_, exec_erxUnpack_of_within hr hlen he hpt hfit,
    erxHeaderOf_openRecord _ _ _ _ _ _, rfl, rfl, fun k hk => ⟨fun hp => ?present, fun ha => ?absent⟩⟩⟩
  case present =>
    rw [loadSlot_decodedRecord s hk, code_decodedRecord s hk, slotWord, slotCode, if_pos hp, if_pos hp]
    have hlast := slotPos_mono s (j := k + 1) (k := 37) hk
    have hlong := four_le_recordBits (classify (bitRead (spanWords s) (slotPos s k) 4))
    rw [slotPos_of_present hp, recordSpec_length] at hlast
    exact ⟨rfl, fun j hj => (getLsbD_bitRead _ _ 4 hj).trans (bitAt_spanWords (by omega))⟩
  case absent =>
    rw [loadSlot_decodedRecord s hk, code_decodedRecord s hk, slotWord, slotCode, ha]
    exact ⟨rfl, rfl⟩

/-- Settles O34: the two words looked at first, and the two reads of a record. -/
theorem erxFaultsAtTheRead : Obligations.ErxFaultsAtTheRead := by
  intro s hr
  refine ⟨fun hlen => ?noWord, fun hlen he => ?oneWord,
    fun k hlen he hpt hk hp hpos => ⟨fun hshort => ?code, fun hlook hshort => ?record⟩⟩
  case noWord =>
    exact takesError_erxUnpack_of_stop hr (unpackSubpacket_of_no_word s.acc ((length_spanWords s).trans hlen))
  case oneWord =>
    have hw : wordAt (spanWords s) 0 = spanWord s 0 := wordAt_spanWords (by omega)
    exact takesError_erxUnpack_of_stop hr
      (unpackSubpacket_of_one_word s.acc ((length_spanWords s).trans hlen) (hw ▸ he))
  case code =>
    rw [← length_spanWords] at hshort
    exact takesError_erxUnpack_of_record hr hlen he hpt hk hp hpos (readRecord_of_look_short hshort)
  case record =>
    rw [← length_spanWords] at hlook hshort
    rw [slotPos_of_present hp] at hshort
    exact takesError_erxUnpack_of_record hr hlen he hpt hk hp hpos (readRecord_of_rest_short hlook hshort)

end Sys2Proof.Machine

/-! PROOFS of the family 44_erx_subpacket, second part: an event packet that fits completes whatever its sub-packets
hold (R190, R212, R219), and with it the groups of an envelope (R231 to R233). -/

namespace Sys2Proof.Machine

/-! ### Sub-packets that fit -/

/-- With 32 bits for every slot left the loop completes, for no record is longer (R189, R190). -/
theorem unpackSlots_completes (o : ChmapOrder) (ws : List Word) (n slot p : Nat) (d : Link) (c : Acc)
    (h : p + 32 * n ≤ 32 * ws.length) :
    ∃ d' q c', unpackSlots o ws n slot p d c = .done (d', q) c' ∧ q ≤ p + 32 * n := by
  induction n generalizing slot p d c with
  | zero => exact ⟨d, p, c, rfl, Nat.le_refl _⟩
  | succ n ih =>
    rw [unpackSlots]
    by_cases hp : present o d.chmap slot = true
    · have hlen := recordSpec_length_le ws p
      rw [if_pos hp, readRecord_of_within (by omega)]
      obtain ⟨d', q, c', hrun, hq⟩ := ih (slot + 1) (p + (recordSpec ws p).1) _ _ (by omega)
      exact ⟨d', q, c', hrun, by omega⟩
    · rw [if_neg hp]
      obtain ⟨d', q, c', hrun, hq⟩ := ih (slot + 1) p (storeSlot d slot 0#32) c (by omega)
      exact ⟨d', q, c', hrun, by omega⟩

/-- 39 words suffice for a sub-packet in any mode (R180, R190). -/
theorem unpackSubpacket_completes (pr : Params) (ws : List Word) (pt : Bool) (c : Acc) (h : 39 ≤ ws.length) :
    ∃ d c', unpackSubpacket pr ws pt c = .done d c' ∧ d.nwords ≤ 39 := by
  cases he : (wordAt ws 0).getLsbD 25 with
  | true =>
    refine ⟨_, c, unpackSubpacket_of_empty c (by omega) he, ?_⟩
    rw [nwords_openRecord_of_empty he]
    decide
  | false =>
    cases pt with
    | true =>
      have hwords : PtHeader.words pr.ptHeader ≤ 2 := by
        rw [PtHeader.words_eq]
        split <;> decide
      rw [unpackSubpacket_of_passthrough c (by omega) he, if_neg (by omega), headedRecord, passthroughRecord_eq]
      exact ⟨_, c, rfl, Nat.add_le_add_right hwords 37⟩
    | false =>
      obtain ⟨d, q, c', hrun, hq⟩ := unpackSlots_completes pr.chmapOrder ws 37 0 64 _ c (by omega)
      rw [unpackSubpacket_of_zeroSuppressed c (by omega) he, hrun]
      exact ⟨_, c', rfl, ceilWords_le (n := 39) (by omega)⟩

/-- 39 words a link suffice for the link loop (R221). -/
theorem unpackLinks_completes (pr : Params) (ws : List Word) (e : Econd) (n off : Nat) (c : Acc)
    (h : off + 39 * n ≤ ws.length) :
    ∃ ds off' c', unpackLinks pr ws e n off c = .done (ds, off') c' ∧ off' ≤ off + 39 * n := by
  induction n generalizing off c with
  | zero => exact ⟨[], off, c, rfl, Nat.le_refl _⟩
  | succ n ih =>
    obtain ⟨d, c₁, hlink, hd⟩ := unpackSubpacket_completes pr (ws.drop off) e.passthrough c
      (by rw [List.length_drop]; omega)
    obtain ⟨ds, off', c₂, hrest, hoff⟩ := ih (off + d.nwords) c₁ (by omega)
    rw [unpackLinks, hlink]
    simp only [hrest]
    exact ⟨_, off', c₂, rfl, by omega⟩

/-! ### Event packets that fit -/

/-- The record after the header words holds their fields (R210, R211). -/
theorem econdHeaderOf_econdHeader (pr : Params) (n draws : Nat) (w0 w1 : Word) :
    EcondHeaderOf (econdHeader pr n draws w0 w1) w0 w1 :=
  ⟨rfl, rfl, rfl, rfl, rfl, rfl, rfl, rfl, rfl, rfl, rfl, rfl, rfl, rfl, rfl⟩

/-- A packet that is truncated, or has 39 words a link and one for the trailer, decodes (R212, R219). -/
theorem econdFrom_completes (pr : Params) (n : Nat) (ws : List Word) (c : Acc)
    (h : (wordAt ws 0).getLsbD 6 = true ∧ 2 ≤ ws.length
      ∨ (wordAt ws 0).getLsbD 6 = false ∧ 2 + 39 * n + 1 ≤ ws.length) :
    ∃ e c', econdFrom pr n ws c = .done e c' ∧ EcondHeaderOf e (wordAt ws 0) (wordAt ws 1) := by
  have hheader := econdHeaderOf_econdHeader pr n c.draws (wordAt ws 0) (wordAt ws 1)
  rw [econdFrom, if_neg (by omega)]
  obtain ⟨ht, -⟩ | ⟨ht, hlen⟩ := h
  · exact ⟨_, _, if_pos ht, hheader⟩
  · obtain ⟨links, off, c', hlinks, hoff⟩ := unpackLinks_completes pr ws
      (econdHeader pr n c.draws (wordAt ws 0) (wordAt ws 1)) n 2 { c with draws := c.draws + 2 } (by omega)
    have htruncated : (econdHeader pr n c.draws (wordAt ws 0) (wordAt ws 1)).truncated ≠ true :=
      ne_true_of_eq_false ht
    simp only [hlinks]
    rw [if_neg htruncated, if_neg (by omega)]
    exact ⟨_, _, rfl, hheader⟩

theorem spanWord_withSpan (s : State) (off len i : Nat) :
    spanWord (withSpan (s.spanBase + off) len s) i = spanWord s (off + i) := by
  rw [spanWord, spanWord, ← Nat.add_assoc]
  rfl

/-- A packet that fits, in the part of the span that holds it. -/
theorem econdFrom_of_fits {s : State} {off len : Nat} (h : PacketFits s off len) (c : Acc) :
    ∃ e c', econdFrom s.params (configuredLinks s) (((spanWords s).drop off).take len) c = .done e c'
      ∧ EcondHeaderOf e (spanWord s off) (spanWord s (off + 1)) := by
  obtain ⟨hspan, hpacket⟩ := h
  rw [← spanWords_withSpan hspan]
  have hword (i : Nat) (hi : i < len) :
      wordAt (spanWords (withSpan (s.spanBase + off) len s)) i = spanWord s (off + i) :=
    (wordAt_spanWords hi).trans (spanWord_withSpan s off len i)
  have hrun := econdFrom_completes s.params (configuredLinks s) (spanWords (withSpan (s.spanBase + off) len s)) c
  rw [hword 0 (by omega), hword 1 (by omega), length_spanWords] at hrun
  exact hrun hpacket

/-! ### Envelopes whose groups fit -/

/-- The sample of the group at word `off` of the span: the fields of its header word, and the header of its packet
(R230, R231). -/
def SampleOfGroup (s : State) (off : Nat) (x : MsSample) : Prop :=
  x.flag = s.params.msLayout.flag.get (spanWord s off) 4
    ∧ x.iSample = s.params.msLayout.index.get (spanWord s off) 11
    ∧ x.soi = msSoi s off ∧ x.length.toNat = msLength s off
    ∧ EcondHeaderOf x.packet (spanWord s (off + 1)) (spanWord s (off + 2))

/-- A group whose packet fits is the next sample (R231, R233). -/
theorem msGroup_of_fits {s : State} {off : Nat} {length : BitVec 16} (h : PacketFits s (off + 1) length.toNat)
    (flag : BitVec 4) (iSample : BitVec 11) (soi : Bool) (m : Ms) (c : Acc) :
    ∃ m' e c', msGroup s.params (configuredLinks s) (spanWords s) off flag iSample soi length m c = .done m' c'
      ∧ m'.samples = m.samples ++ [⟨flag, iSample, soi, length, e⟩]
      ∧ EcondHeaderOf e (spanWord s (off + 1)) (spanWord s (off + 2)) := by
  obtain ⟨e, c', he, hheader⟩ := econdFrom_of_fits h c
  have hfit : off + 1 + length.toNat ≤ (spanWords s).length := by
    rw [length_spanWords]
    exact h.1
  exact ⟨_, e, c', msGroup_of_econdFrom hfit he flag iSample soi m, rfl, hheader⟩

/-- One round of the loop at a group whose packet fits (R231). -/
theorem msLoop_of_fits {s : State} {off : Nat} (h : PacketFits s (off + 1) (msLength s off)) (room : Nat) (m : Ms)
    (c : Acc) :
    ∃ m' x c', msLoop s.params (configuredLinks s) (spanWords s) (room + 1) off m c
        = msLoop s.params (configuredLinks s) (spanWords s) room (off + 1 + msLength s off) m' c'
      ∧ m'.samples = m.samples ++ [x] ∧ SampleOfGroup s off x := by
  have hoff : off < s.spanLen := by
    have := h.1
    omega
  obtain ⟨m', e, c', hgroup, hsamples, hheader⟩ :=
    msGroup_of_fits h (s.params.msLayout.flag.get (spanWord s off) 4)
      (s.params.msLayout.index.get (spanWord s off) 11) (msSoi s off) m c
  refine ⟨m', _, c', ?_, hsamples, rfl, rfl, rfl, rfl, hheader⟩
  rw [msLoop, length_spanWords, if_pos hoff]
  simp only [wordAt_spanWords hoff]
  rw [msSoi] at hgroup
  rw [hgroup]
  rfl

/-- The loop ends at the end of the span, with room left or not (R231, R232). -/
theorem msLoop_at_end (pr : Params) (n : Nat) {ws : List Word} {off : Nat} (h : ws.length ≤ off) (room : Nat) (m : Ms)
    (c : Acc) : msLoop pr n ws room off m c = .done m c := by
  cases room <;> exact if_neg (Nat.not_lt.2 h)

/-- The loop of `MS_FROM` in the middle: the groups passed are the samples so far, in order (R231). -/
theorem msFrom_reaches {s : State} {k : Nat} {off : Nat → Nat} (h0 : off 0 = 0) (hk : k ≤ s.params.maxSamples)
    (hgroup : ∀ i, i < k →
      off (i + 1) = off i + 1 + msLength s (off i) ∧ PacketFits s (off i + 1) (msLength s (off i))) (c : Acc) :
    ∃ m c', msFrom s.params (configuredLinks s) (spanWords s) c
        = msLoop s.params (configuredLinks s) (spanWords s) (s.params.maxSamples - k) (off k) m c'
      ∧ m.samples.length = k ∧ ∀ i, i < k → ∃ x, m.samples[i]? = some x ∧ SampleOfGroup s (off i) x := by
  induction k with
  | zero => exact ⟨Ms.zero, c, by rw [h0]; rfl, rfl, fun i hi => absurd hi (Nat.not_lt_zero i)⟩
  | succ k ih =>
    obtain ⟨m, c₁, hrun, hlen, hpassed⟩ := ih (by omega) fun i hi => hgroup i (by omega)
    obtain ⟨hnext, hfits⟩ := hgroup k (Nat.lt_succ_self k)
    obtain ⟨m', x, c', hround, hsamples, hx⟩ := msLoop_of_fits hfits (s.params.maxSamples - (k + 1)) m c₁
    refine ⟨m', c', ?_, by rw [hsamples, List.length_append, hlen]; rfl, fun i hi => ?_⟩
    · rw [hrun, hnext, ← hround, show s.params.maxSamples - (k + 1) + 1 = s.params.maxSamples - k by omega]
    · rw [hsamples]
      obtain hlt | rfl := Nat.lt_succ_iff_lt_or_eq.1 hi
      · rw [List.getElem?_append_left (by omega)]
        exact hpassed i hlt
      · exact ⟨x, by rw [← hlen]; exact List.getElem?_concat_length, hx⟩

/-- Settles O43: the loop passes every group and ends at the end of the span; a walked header word is one group. -/
theorem msGroupsComplete : Obligations.MsGroupsComplete := by
  refine ⟨fun s k off hr hk h0 hend hgroup => ?envelope,
    fun s flag iSample soi length h hword hroom hfits => ?walked⟩
  case envelope =>
    obtain ⟨m, c, hrun, hlen, hsamples⟩ := msFrom_reaches h0 hk hgroup s.acc
    rw [msLoop_at_end _ _ (by rw [length_spanWords, hend])] at hrun
    have hexec : exec .msFrom s = .next { s.withAcc c with ms := m } := by
      rw [exec, execMsFrom, onSpan_of_ready hr, hrun]
      rfl
    exact ⟨_, hexec, rfl, hlen, hsamples⟩
  case walked =>
    obtain ⟨m, e, c, hgroup, hsamples, hheader⟩ := msGroup_of_fits hfits flag iSample soi s.ms s.acc
    have hcursor : 32 * (s.p / 32 + 1 + length.toNat) = s.p + 32 + 32 * length.toNat := by omega
    exact ⟨_, _, exec_msHdr_of_ahead h hroom hgroup, by rw [hcursor]; rfl, hsamples, rfl, rfl, rfl, rfl, hheader⟩

end Sys2Proof.Machine

/-! PROOFS of the family 44_erx_subpacket, third part: `FMT_ADD` writes the fields of a sub-packet one behind the other
(R256, R258), and `ERX_UNPACK` reads each of them back where it was written (R259 to R263, R196). -/

namespace Sys2Proof.Machine

/-! ### Fields one behind the other -/

/-- Bits of a list of fields. -/
def fieldsWidth (xs : List Field) : Nat := (xs.map Field.n).sum

/-- Bit `k` of fields one behind the other, each the most significant bit first; nothing behind the last. -/
def fieldsBit : List Field → Nat → Bool
  | [], _ => false
  | x :: xs, k => if k < x.n then x.v.testBit (x.n - 1 - k) else fieldsBit xs (k - x.n)

/-- The fields written in order from the write cursor on. -/
def putFields (xs : List Field) (f : BitBuf) : BitBuf := xs.foldl (fun g x => writeBits x.n x.v g) f

theorem fieldsWidth_cons (x : Field) (xs : List Field) : fieldsWidth (x :: xs) = x.n + fieldsWidth xs := rfl

theorem fieldsWidth_append (xs ys : List Field) : fieldsWidth (xs ++ ys) = fieldsWidth xs + fieldsWidth ys := by
  simp [fieldsWidth]

theorem fieldsWidth_singleton (x : Field) : fieldsWidth [x] = x.n := Nat.add_zero x.n

theorem fieldsBit_of_width_le {xs : List Field} {k : Nat} (h : fieldsWidth xs ≤ k) : fieldsBit xs k = false := by
  induction xs generalizing k with
  | nil => rfl
  | cons x xs ih =>
    rw [fieldsWidth_cons] at h
    rw [fieldsBit, if_neg (by omega), ih (by omega)]

/-- Zeros behind the fields are what stands behind them anyway. -/
theorem fieldsBit_append_zeros (xs : List Field) (n k : Nat) : fieldsBit (xs ++ [⟨n, 0⟩]) k = fieldsBit xs k := by
  induction xs generalizing k with
  | nil => simp [fieldsBit]
  | cons x xs ih => simp only [List.cons_append, fieldsBit, ih]

/-- Fields that fit are written (R256). -/
theorem writeFields_eq_putFields {pr : Params} {xs : List Field} {f : BitBuf}
    (h : f.op + fieldsWidth xs ≤ 32 * pr.obufWords) : writeFields pr xs f = .ok (putFields xs f) := by
  induction xs generalizing f with
  | nil => rfl
  | cons x xs ih =>
    rw [fieldsWidth_cons] at h
    rw [writeFields, writeField, if_neg (by omega)]
    exact ih (by rw [writeBits_op]; omega)

theorem putFields_concat (xs : List Field) (x : Field) (f : BitBuf) :
    putFields (xs ++ [x]) f = writeBits x.n x.v (putFields xs f) :=
  List.foldl_concat _ _ _ _

theorem putFields_op (xs : List Field) (f : BitBuf) : (putFields xs f).op = f.op + fieldsWidth xs := by
  induction xs generalizing f with
  | nil => rfl
  | cons x xs ih =>
    rw [putFields, List.foldl_cons, ← putFields, ih, writeBits_op, fieldsWidth_cons, Nat.add_assoc]

theorem putFields_wf (xs : List Field) {f : BitBuf} (h : Memory.wf f.mem = true) :
    Memory.wf (putFields xs f).mem = true := by
  induction xs generalizing f with
  | nil => exact h
  | cons x xs ih => exact ih (writeBits_wf _ _ h)

/-- Fields written (R256): their bits read back; the rest of each word begun by them reads 0; every other bit is as it
was. -/
theorem bufBit_putFields (xs : List Field) {f : BitBuf} (h : Memory.wf f.mem = true) (q : Nat) :
    bufBit (putFields xs f).mem q
      = if f.op ≤ q ∧ q < f.op + fieldsWidth xs then fieldsBit xs (q - f.op)
        else if f.op ≤ 32 * (q / 32) ∧ 32 * (q / 32) < f.op + fieldsWidth xs then false
        else bufBit f.mem q := by
  induction xs generalizing f with
  | nil =>
    rw [show fieldsWidth [] = 0 from rfl, if_neg (by omega), if_neg (by omega)]
    rfl
  | cons x xs ih =>
    rw [putFields, List.foldl_cons, ← putFields, ih (writeBits_wf _ _ h), bufBit_writeBits _ _ h, writeBits_op,
      fieldsWidth_cons, fieldsBit]
    -- `q` lies in the first field, in a later one, or in none of them.
    obtain hq | hq | hq : (f.op ≤ q ∧ q < f.op + x.n) ∨ (f.op + x.n ≤ q ∧ q < f.op + (x.n + fieldsWidth xs))
        ∨ (q < f.op ∨ f.op + (x.n + fieldsWidth xs) ≤ q) := by omega
    · rw [if_neg (by omega), if_neg (by omega), if_pos hq, if_pos (by omega), if_pos (by omega),
        show x.n - 1 - (q - f.op) = f.op + x.n - 1 - q by omega]
    · rw [if_pos (by omega), if_pos (by omega), if_neg (by omega), Nat.sub_sub]
    · rw [if_neg (by omega), if_neg (c := f.op ≤ q ∧ q < f.op + x.n) (by omega),
        if_neg (c := f.op ≤ q ∧ q < f.op + (x.n + fieldsWidth xs)) (by omega)]
      by_cases hnew : f.op ≤ 32 * (q / 32) ∧ 32 * (q / 32) < f.op + (x.n + fieldsWidth xs)
      · rw [if_pos hnew]
        by_cases hfirst : 32 * (q / 32) < f.op + x.n
        · rw [if_neg (by omega), if_pos (by omega)]
        · rw [if_pos (by omega)]
      · rw [if_neg hnew, if_neg (by omega), if_neg (by omega)]

/-! ### Fields read back -/

/-- The fields stand in the words from bit position `q` on: each reads back as its value, cut to its width (R101). -/
def FieldsAt (ws : List Word) : Nat → List Field → Prop
  | _, [] => True
  | q, x :: xs => bitRead ws q x.n = BitVec.ofNat x.n x.v ∧ FieldsAt ws (q + x.n) xs

theorem fieldsAt_append {ws : List Word} {q : Nat} {xs ys : List Field} :
    FieldsAt ws q (xs ++ ys) ↔ FieldsAt ws q xs ∧ FieldsAt ws (q + fieldsWidth xs) ys := by
  induction xs generalizing q with
  | nil => simp [FieldsAt, fieldsWidth]
  | cons x xs ih => rw [List.cons_append, FieldsAt, FieldsAt, ih, fieldsWidth_cons, Nat.add_assoc, and_assoc]

/-- A read of bits that are those of a value. -/
theorem bitRead_eq_ofNat {ws : List Word} {q n v : Nat} (h : ∀ k, k < n → bitAt ws (q + k) = v.testBit (n - 1 - k)) :
    bitRead ws q n = BitVec.ofNat n v := by
  refine (eq_bitRead fun k hk => ?_).symm
  rw [BitVec.getLsbD_ofNat, decide_eq_true (by omega), Bool.true_and, h k hk]

/-- The bits of a read (R101). -/
theorem bitAt_of_bitRead {ws : List Word} {q n : Nat} {v : BitVec n} (h : bitRead ws q n = v) {k : Nat} (hk : k < n) :
    bitAt ws (q + k) = v.getLsbD (n - 1 - k) := by
  rw [← h, getLsbD_bitRead ws q n hk]

theorem fieldsAt_of_bits {ws : List Word} {q : Nat} {xs : List Field}
    (h : ∀ k, k < fieldsWidth xs → bitAt ws (q + k) = fieldsBit xs k) : FieldsAt ws q xs := by
  induction xs generalizing q with
  | nil => trivial
  | cons x xs ih =>
    rw [fieldsWidth_cons] at h
    refine ⟨bitRead_eq_ofNat fun k hk => ?_, ih fun k hk => ?_⟩
    · rw [h k (by omega), fieldsBit, if_pos hk]
    · rw [Nat.add_assoc, h (x.n + k) (by omega), fieldsBit, if_neg (by omega), Nat.add_sub_cancel_left]

/-! ### Source words -/

/-- A word is its mode bits and its three fields (R62). -/
theorem sampleWord_of_fields (w : Word) :
    sampleWord (w.getLsbD 31) (w.getLsbD 30) (slotA w) (slotM w) (slotT w) = w := by
  simp only [sampleWord, slotA, slotM, slotT, ofBool_getLsbD, BitVec.extractLsb'_append_extractLsb'_eq_extractLsb',
    BitVec.extractLsb'_eq_self]

/-- A word without its last field (R261). -/
theorem sampleWord_clearT (w : Word) :
    sampleWord (w.getLsbD 31) (w.getLsbD 30) (slotA w) (slotM w) 0#10 = w &&& 0xFFFFFC00#32 := by
  apply BitVec.eq_of_getLsbD_eq
  intro k hk
  simp only [sampleWord, slotA, slotM, BitVec.getLsbD_append, BitVec.getLsbD_extractLsb', BitVec.getLsbD_ofBool]
  interval_cases k <;> simp

/-- A word with its middle field alone (R261). -/
theorem sampleWord_onlyM (w : Word) : sampleWord false false 0#10 (slotM w) 0#10 = w &&& 0x000FFC00#32 := by
  apply BitVec.eq_of_getLsbD_eq
  intro k hk
  simp only [sampleWord, slotM, BitVec.getLsbD_append, BitVec.getLsbD_extractLsb', BitVec.getLsbD_ofBool]
  interval_cases k <;> simp

/-- The word that the record of a class keeps of a source word (R258, R182 to R188). -/
def recordedWord (k : RecClass) (w : Word) : Word :=
  match k with
  | .zs0000 => sampleWord false false (slotA w) (slotM w) 0#10
  | .zs0001 => sampleWord false false 0#10 (slotM w) 0#10
  | .zs0010 => sampleWord false true (slotA w) (slotM w) 0#10
  | .zs0011 => sampleWord false false 0#10 (slotM w) (slotT w)
  | .fp01 => sampleWord false false (slotA w) (slotM w) (slotT w)
  | .fp10 => sampleWord true false (slotA w) (slotM w) (slotT w)
  | .fp11 => sampleWord true true (slotA w) (slotM w) (slotT w)

/-- The record the formatter chooses for a source word has the length of R262, keeps the word's canonical form (R261),
and is of the invalid class exactly for a word with the mode bits `10` (R260). -/
theorem zsProcess_spec (zsEn : Bool) (w : Word) :
    (zsProcess zsEn w).recordBits = zsBits zsEn w ∧ recordedWord (zsProcess zsEn w) w = canon zsEn w
      ∧ recordInvalid (zsProcess zsEn w) = (w.getLsbD 31 && !w.getLsbD 30) := by
  have hfields := sampleWord_of_fields w
  have hclear := sampleWord_clearT w
  have hzero : (zsEn && decide (slotT w = 0#10)) = true ↔ w.extractLsb' 0 10 = 0#10 ∧ zsEn = true := by
    rw [Bool.and_eq_true, decide_eq_true_eq, and_comm, slotT]
  unfold zsProcess zsBits canon
  cases h31 : w.getLsbD 31 <;> cases h30 : w.getLsbD 30 <;> rw [h31, h30] at hfields
  case true.true => exact ⟨rfl, hfields, rfl⟩
  case true.false => exact ⟨rfl, hfields, rfl⟩
  case false.true =>
    rw [h31, h30] at hclear
    exact ⟨rfl, hclear, rfl⟩
  case false.false =>
    by_cases hz : w.extractLsb' 0 10 = 0#10 ∧ zsEn = true
    · simp only [hzero, if_pos hz]
      exact ⟨rfl, sampleWord_onlyM w, rfl⟩
    · simp only [hzero, if_neg hz]
      exact ⟨rfl, hfields, rfl⟩

/-! ### Records read back -/

theorem fieldsWidth_recordFields (k : RecClass) (w : Word) : fieldsWidth (recordFields k w) = k.recordBits := by
  cases k <;> rfl

/-- A record written starts with the code of its class (R75, R258). -/
theorem classify_of_fieldsAt {ws : List Word} {q : Nat} {k : RecClass} {w : Word}
    (h : FieldsAt ws q (recordFields k w)) : classify (bitRead ws q 4) = k := by
  rw [classify_iff]
  cases k <;> exact (extractLsb'_bitRead ws q (by decide)).trans h.1

/-- A record written reads back as the word its class keeps (R182 to R188). -/
theorem recordSpec_of_fieldsAt {ws : List Word} {q : Nat} {k : RecClass} {w : Word}
    (h : FieldsAt ws q (recordFields k w)) : recordSpec ws q = (k.recordBits, recordedWord k w) := by
  have hclass := classify_of_fieldsAt h
  have hword := recordSpec_word ws q
  have hlength := recordSpec_length ws q
  rw [hclass] at hword hlength
  refine Prod.ext hlength (hword.trans ?_)
  cases k <;>
    simp only [FieldsAt, recordFields, BitVec.ofNat_toNat, BitVec.setWidth_eq, Nat.add_assoc, Nat.reduceAdd] at h <;>
    simp only [recordWord, recordedWord, RecClass.codeBits, RecClass.recordBits, slotA, slotM, slotT,
      BitVec.extractLsb'_setWidth_of_le, extractLsb'_bitRead, Nat.reduceSub, Nat.reduceAdd, Nat.reduceLeDiff,
      Nat.add_assoc, h]

/-- The code `10` as two bits. -/
theorem extractLsb'_eq_code10 (w : Word) :
    w.extractLsb' 30 2 = 0b10#2 ↔ (w.getLsbD 31 && !w.getLsbD 30) = true := by
  have hbits : w.extractLsb' 30 2 = BitVec.ofBool (w.getLsbD 31) ++ BitVec.ofBool (w.getLsbD 30) := by
    simp only [ofBool_getLsbD, BitVec.extractLsb'_append_extractLsb'_eq_extractLsb']
  rw [hbits]
  cases w.getLsbD 31 <;> cases w.getLsbD 30 <;> decide

section
variable {u : State} {zsEn : Bool} {src : List Word}
  (hmap : ∀ k, k < 37 → present u.params.chmapOrder (chmapOf u) k = true)
  (h : FieldsAt (spanWords u) 64 (channelFields zsEn src 37 0))
include hmap h

/-- The decoder finds every record where the formatter wrote it (R189, R258). -/
theorem fieldsAt_slotPos {k : Nat} (hk : k ≤ 37) :
    FieldsAt (spanWords u) (slotPos u k) (channelFields zsEn src (37 - k) k)
      ∧ slotPos u k + fieldsWidth (channelFields zsEn src (37 - k) k)
          = 64 + fieldsWidth (channelFields zsEn src 37 0) := by
  induction k with
  | zero => exact ⟨h, rfl⟩
  | succ k ih =>
    obtain ⟨hat, hwidth⟩ := ih (by omega)
    rw [show 37 - k = 37 - (k + 1) + 1 by omega, channelFields] at hat hwidth
    rw [fieldsAt_append, fieldsWidth_recordFields] at hat
    rw [fieldsWidth_append, fieldsWidth_recordFields] at hwidth
    obtain ⟨hrecord, hrest⟩ := hat
    rw [slotPos_of_present (hmap k (by omega)), recordSpec_of_fieldsAt hrecord]
    exact ⟨hrest, by omega⟩

/-- What the decoder reads for a slot is the canonical form of its source word, with the code `10` for a source word
that has it (R260, R261). -/
theorem slot_of_fieldsAt {k : Nat} (hk : k < 37) :
    slotWord u k = canon zsEn (wordAt src (2 + k))
      ∧ ((slotCode u k).extractLsb' 2 2 = 0b10#2 ↔ (wordAt src (2 + k)).extractLsb' 30 2 = 0b10#2) := by
  obtain ⟨hat, -⟩ := fieldsAt_slotPos hmap h hk.le
  obtain ⟨-, hcanon, hinvalid⟩ := zsProcess_spec zsEn (wordAt src (2 + k))
  rw [show 37 - k = 37 - (k + 1) + 1 by omega, channelFields] at hat
  have hrecord := (fieldsAt_append.1 hat).1
  have hcode := recordInvalid_classify (bitRead (spanWords u) (slotPos u k) 4)
  rw [classify_of_fieldsAt hrecord, hinvalid] at hcode
  rw [slotWord, slotCode, if_pos (hmap k hk), if_pos (hmap k hk), recordSpec_of_fieldsAt hrecord,
    extractLsb'_eq_code10, hcode, beq_iff_eq]
  exact ⟨hcanon, Iff.rfl⟩

end

/-- The header words read back: status, Hamming bits, not empty, the common modes, every slot present (R258, R259). -/
theorem header_of_fieldsAt {ws : List Word} {pr : Params} {cm0 cm1 : BitVec 10}
    (h : FieldsAt ws 0 (subpacketHeaderFields pr cm0 cm1)) :
    (wordAt ws 0).extractLsb' 29 3 = pr.fmtStat ∧ (wordAt ws 0).extractLsb' 26 3 = pr.fmtHam
      ∧ (wordAt ws 0).getLsbD 25 = false ∧ (wordAt ws 0).extractLsb' 15 10 = cm0
      ∧ (wordAt ws 0).extractLsb' 5 10 = cm1
      ∧ (wordAt ws 0).extractLsb' 0 5 ++ wordAt ws 1 = BitVec.allOnes 37 := by
  simp only [FieldsAt, subpacketHeaderFields, BitVec.ofNat_toNat, BitVec.setWidth_eq, Nat.zero_add,
    Nat.reduceAdd] at h
  obtain ⟨hstat, hham, hempty, hcm0, hcm1, hhi, hlo, -⟩ := h
  have hbit := bitAt_of_bitRead hempty (k := 0) (by decide)
  have hword := extractLsb'_wordAt ws 1 (k := 0) (l := 32) (by decide)
  rw [BitVec.extractLsb'_eq_self] at hword
  refine ⟨(extractLsb'_wordAt ws 0 (by decide)).trans hstat, (extractLsb'_wordAt ws 0 (by decide)).trans hham, hbit,
    (extractLsb'_wordAt ws 0 (by decide)).trans hcm0, (extractLsb'_wordAt ws 0 (by decide)).trans hcm1, ?_⟩
  rw [hword, extractLsb'_wordAt ws 0 (by decide)]
  simp only [Nat.reduceMul, Nat.reduceSub, Nat.reduceAdd, hhi, hlo]
  decide

/-! ### The sub-packet `FMT_ADD` writes -/

theorem fieldsWidth_subpacketHeaderFields (pr : Params) (cm0 cm1 : BitVec 10) :
    fieldsWidth (subpacketHeaderFields pr cm0 cm1) = 64 := rfl

theorem fmtBuf_op (s : State) : (fmtBuf s).op = s.op := rfl

theorem padField_n (op : Nat) : (padField op).n = (32 - op % 32) % 32 := rfl

theorem fieldsWidth_channelFields (zsEn : Bool) (src : List Word) (n slot : Nat) :
    fieldsWidth (channelFields zsEn src n slot)
      = ((List.range n).map fun k => zsBits zsEn (wordAt src (2 + (slot + k)))).sum := by
  induction n generalizing slot with
  | zero => rfl
  | succ n ih =>
    rw [channelFields, fieldsWidth_append, fieldsWidth_recordFields, (zsProcess_spec _ _).1, ih,
      List.range_succ_eq_map, List.map_cons, List.sum_cons, List.map_map]
    simp only [Function.comp_def, Nat.add_zero, Nat.succ_eq_add_one, Nat.add_assoc, Nat.add_comm 1]

/-- The fields of the sub-packet of the source frame in the span (R258). -/
def formattedFields (s : State) : List Field := subpacketFields s.params s.cfgZsEn (spanWords s)

theorem fieldsWidth_formattedFields {s : State} (h : s.spanLen = 40) :
    fieldsWidth (formattedFields s) = formattedBits s := by
  rw [formattedFields, subpacketFields, fieldsWidth_append, fieldsWidth_subpacketHeaderFields,
    fieldsWidth_channelFields, formattedBits]
  refine congrArg (64 + ·) (congrArg List.sum (List.map_congr_left fun k hk => ?_))
  rw [List.mem_range] at hk
  rw [Nat.zero_add, wordAt_spanWords (by omega)]

theorem formattedBits_eq {s : State} (h : s.spanLen = 40) :
    64 + fieldsWidth (channelFields s.cfgZsEn (spanWords s) 37 0) = formattedBits s := by
  rw [← fieldsWidth_formattedFields h, formattedFields, subpacketFields, fieldsWidth_append,
    fieldsWidth_subpacketHeaderFields]

/-- The header and the records stand where the sub-packet does (R258). -/
theorem fieldsAt_subpacket {ws : List Word} {s : State} (h : FieldsAt ws 0 (formattedFields s)) :
    FieldsAt ws 0
        (subpacketHeaderFields s.params (slotM (wordAt (spanWords s) 1)) (slotT (wordAt (spanWords s) 1)))
      ∧ FieldsAt ws 64 (channelFields s.cfgZsEn (spanWords s) 37 0) := by
  rwa [formattedFields, subpacketFields, fieldsAt_append, fieldsWidth_subpacketHeaderFields, Nat.zero_add] at h

/-- A formatted sub-packet has 21 to 39 words (R262). -/
theorem formattedBits_bounds (s : State) : 656 ≤ formattedBits s ∧ formattedBits s ≤ 1248 := by
  have hbits (b : Nat) (hb : b ∈ (List.range 37).map fun k => zsBits s.cfgZsEn (spanWord s (2 + k))) :
      16 ≤ b ∧ b ≤ 32 := by
    obtain ⟨k, -, rfl⟩ := List.mem_map.1 hb
    have hlen := classify_recordBits (zsProcess s.cfgZsEn (spanWord s (2 + k)))
    rw [(zsProcess_spec _ _).1] at hlen
    omega
  have hlow := List.card_nsmul_le_sum _ 16 fun b hb => (hbits b hb).1
  have hhigh := List.sum_le_card_nsmul _ 32 fun b hb => (hbits b hb).2
  rw [List.length_map, List.length_range, smul_eq_mul] at hlow hhigh
  rw [formattedBits]
  omega

/-- Words of a formatted sub-packet (R262). -/
def formattedWords (s : State) : Nat := (formattedBits s + 31) / 32

/-- The formatter's buffer with the sub-packet and its padding written (R258). -/
def formattedBuf (s : State) : BitBuf :=
  putFields (formattedFields s ++ [padField (s.op + formattedBits s)]) (fmtBuf s)

section
variable {s : State} (hf : FmtReady s) (hlen : s.spanLen = 40)
include hf hlen

theorem fieldsWidth_padded :
    fieldsWidth (formattedFields s ++ [padField (s.op + formattedBits s)]) = 32 * formattedWords s := by
  obtain ⟨-, -, hop, -, -⟩ := hf
  rw [fieldsWidth_append, fieldsWidth_formattedFields hlen, fieldsWidth_singleton, padField_n, formattedWords]
  omega

theorem formattedBuf_op : (formattedBuf s).op = s.op + 32 * formattedWords s := by
  rw [formattedBuf, putFields_op, fieldsWidth_padded hf hlen, fmtBuf_op]

/-- The sub-packet's bits, and every other bit as it was: whole words are written (R258). -/
theorem bufBit_formattedBuf (q : Nat) :
    bufBit (formattedBuf s).mem q
      = if s.op ≤ q ∧ q < s.op + 32 * formattedWords s then fieldsBit (formattedFields s) (q - s.op)
        else bufBit s.obuf q := by
  have hwidth := fieldsWidth_padded hf hlen
  obtain ⟨-, hwf, hop, -, -⟩ := hf
  rw [formattedBuf, bufBit_putFields _ hwf, hwidth, padField, fieldsBit_append_zeros]
  by_cases hq : s.op ≤ q ∧ q < s.op + 32 * formattedWords s
  · exact (if_pos hq).trans (if_pos hq).symm
  · have hword : ¬ (s.op ≤ 32 * (q / 32) ∧ 32 * (q / 32) < s.op + 32 * formattedWords s) := by omega
    exact (if_neg hq).trans ((if_neg hword).trans (if_neg hq).symm)

/-- With room for 39 words the sub-packet is written (R258). -/
theorem writeSubpacket_of_room (hroom : s.op + 32 * 39 ≤ 32 * s.params.obufWords) :
    writeSubpacket s.params s.cfgZsEn (spanWords s) (fmtBuf s) = .ok (formattedBuf s) := by
  have hbits := fieldsWidth_formattedFields hlen
  have hwidth := fieldsWidth_padded hf hlen
  have hbounds := formattedBits_bounds s
  rw [fieldsWidth_append, hbits, fieldsWidth_singleton] at hwidth
  have hwords : formattedWords s ≤ 39 := ceilWords_le (n := 39) hbounds.2
  have hop : (putFields (formattedFields s) (fmtBuf s)).op = s.op + formattedBits s := by
    rw [putFields_op, hbits, fmtBuf_op]
  have hfit : (fmtBuf s).op + fieldsWidth (formattedFields s) ≤ 32 * s.params.obufWords := by
    rw [hbits, fmtBuf_op]
    omega
  rw [writeSubpacket, ← formattedFields, writeFields_eq_putFields hfit]
  simp only [hop]
  rw [writeField, hop, if_neg (by omega), formattedBuf, putFields_concat]

theorem exec_fmtAdd_of_room (hr : Ready s) (harg : arg0Nat s = s.fmtNlinks) (hmax : arg0Nat s ≤ 11)
    (hroom : s.op + 32 * 39 ≤ 32 * s.params.obufWords) :
    exec .fmtAdd s
      = .next
          { s with
            obuf := (formattedBuf s).mem, op := s.op + 32 * formattedWords s, olen := s.olen + formattedWords s,
            fmtNlinks := s.fmtNlinks + 1 } := by
  have hop := formattedBuf_op hf hlen
  have hwrite := writeSubpacket_of_room hf hlen hroom
  obtain ⟨hopen, -, hword, holen, -⟩ := hf
  have hceil : ceilWords (s.op + 32 * formattedWords s) = s.olen + formattedWords s := by
    rw [holen, ceilWords, ceilWords]
    omega
  rw [exec, execFmtAdd, onSpan_of_ready hr, if_neg (by rw [hopen]; decide), if_neg (by omega), length_spanWords,
    if_neg (not_not.2 hlen), hwrite, finishFmt, State.withFmt, hop, hceil]

/-- The words written, read as a span, are the sub-packet's fields from its first bit on (R258). -/
theorem fieldsAt_of_words {u : State} (hu : u.spanLen = formattedWords s)
    (hwords : ∀ i, i < formattedWords s → spanWord u i = Memory.readWord (formattedBuf s).mem (s.op / 32 + i)) :
    FieldsAt (spanWords u) 0 (formattedFields s) := by
  refine fieldsAt_of_bits fun k hk => ?_
  rw [fieldsWidth_formattedFields hlen] at hk
  have hkn : k < 32 * formattedWords s := by
    rw [formattedWords]
    omega
  have hbit := bufBit_formattedBuf hf hlen (s.op + k)
  obtain ⟨-, -, hop, -, -⟩ := hf
  rw [if_pos (by omega), Nat.add_sub_cancel_left, bufBit_eq_readWord,
    show (s.op + k) / 32 = s.op / 32 + k / 32 by omega, show (s.op + k) % 32 = k % 32 by omega,
    ← hwords (k / 32) (by omega), ← wordAt_spanWords (by omega)] at hbit
  rw [Nat.zero_add]
  exact hbit

end

/-- A map with every bit set has every slot, in either order (R179). -/
theorem present_allOnes (o : ChmapOrder) {k : Nat} (hk : k < 37) : present o (BitVec.allOnes 37) k = true := by
  cases o <;> simp only [present, BitVec.getLsbD_allOnes, decide_eq_true_eq] <;> omega

/-- Settles O48: the decoder reads each field of the sub-packet where the formatter wrote it, so the record it builds
has the header of R259 and for each slot the canonical form of its source word. -/
theorem fmtAddInverseOfErxUnpack : Obligations.FmtAddInverseOfErxUnpack := by
  intro s hr hf harg hmax hlen hroom n
  have ⟨hlow, hhigh⟩ := formattedBits_bounds s
  have ⟨_, hwf, hop, _, _⟩ := hf
  have hn : n = formattedWords s := rfl
  refine ⟨rfl, by omega, by omega, _, exec_fmtAdd_of_room hf hlen hr harg hmax hroom, putFields_wf _ hwf,
    fun a ha => readByte_eq_of_bufBit fun k hk => ?outside, fun q hq hqn => ?padding,
    fun u hu hulen hpt hwords => ?decode⟩
  case outside =>
    rw [bufBit_formattedBuf hf hlen, if_neg (by omega)]
  case padding =>
    rw [bufBit_formattedBuf hf hlen, if_pos (by omega), fieldsBit_of_width_le]
    rw [fieldsWidth_formattedFields hlen]
    omega
  case decode =>
    obtain ⟨hheader, hchannels⟩ := fieldsAt_subpacket (fieldsAt_of_words hf hlen hulen hwords)
    have hw0 : wordAt (spanWords u) 0 = spanWord u 0 := wordAt_spanWords (by omega)
    have hw1 : wordAt (spanWords u) 1 = spanWord u 1 := wordAt_spanWords (by omega)
    have hw (i : Nat) (hi : i < 40) : wordAt (spanWords s) i = spanWord s i := wordAt_spanWords (hlen ▸ hi)
    have ⟨hstat, hham, hempty, hcm0, hcm1, hones⟩ := header_of_fieldsAt hheader
    rw [hw0] at hstat hham hempty hcm0 hcm1
    rw [hw 1 (by decide)] at hcm0 hcm1
    have hchmap : chmapOf u = BitVec.allOnes 37 := by rw [chmapOf, ← hw0, ← hw1, hones]
    have hmap (k : Nat) (hk : k < 37) : present u.params.chmapOrder (chmapOf u) k = true := by
      rw [hchmap, present_allOnes _ hk]
    have hend : slotPos u 37 = formattedBits s := by
      have ⟨_, hwidth⟩ := fieldsAt_slotPos hmap hchannels (Nat.le_refl 37)
      rw [formattedBits_eq hlen] at hwidth
      exact hwidth
    have hslot (k : Nat) (hk : k < 37) := slot_of_fieldsAt hmap hchannels hk
    have hexec := exec_erxUnpack_of_within hu (by omega) hempty hpt (by omega)
    rw [hend, show ceilWords (formattedBits s) = n from rfl] at hexec
    refine ⟨_, hexec, hstat, hham, hempty, hcm0, hcm1, hchmap, fun k hk => ?canon, ?invalid⟩
    case canon => rw [loadSlot_decodedRecord u hk, (hslot k hk).1, hw _ (by omega)]
    case invalid =>
      rw [hasInvalidCode_iff]
      refine exists_congr fun k => ⟨fun ⟨hk, hc⟩ => ⟨hk, ?_⟩, fun ⟨hk, hc⟩ => ⟨hk, ?_⟩⟩
      · rwa [code_decodedRecord u hk, (hslot k hk).2, hw _ (by omega)] at hc
      · rwa [code_decodedRecord u hk, (hslot k hk).2, hw _ (by omega)]

end Sys2Proof.Machine

/-! PROOFS of the family 45_econd_packet, first part: the CRC-8 (R216, R218) and its input built from the two header words
(R217). -/

namespace Sys2Proof.Machine

/-! ### The CRC-8 -/

/-- A zero register stays zero over zero bits (R216). -/
theorem crcBits_zero {n : Nat} (poly : BitVec n) (w k : Nat) : crcBits poly 0#w k 0#n = 0#n := by
  have h := crcBits_xor poly 0#w 0#w k 0#n 0#n
  rwa [BitVec.xor_self, BitVec.xor_self, BitVec.xor_self] at h

/-- The CRC-8 of 1 is the polynomial: only the last bit fed is set, and it meets a zero register (R216). -/
theorem crc8Of_one (poly : BitVec 8) : crc8Of poly 1#64 = poly := by
  have hzeros : ∀ i < 63, (0#63).getLsbD i = (1#64).getLsbD (1 + i) := by decide
  calc crc8Of poly 1#64
    _ = crcBits poly 1#64 1 (crcBits poly 0#63 63 0#8) := crcBits_add poly (m := 63) hzeros 0#8
    _ = poly := by rw [crcBits_zero, crcBits_succ]; exact BitVec.zero_xor

/-- Two words side by side as a number. -/
theorem ofNat_words (hi lo : Word) : BitVec.ofNat 64 (hi.toNat * 2 ^ 32 + lo.toNat) = hi ++ lo := by
  rw [← Nat.shiftLeft_eq, Nat.shiftLeft_add_eq_or_of_lt lo.isLt, ← BitVec.toNat_append, BitVec.ofNat_toNat]
  exact BitVec.setWidth_eq _

/-- Settles O25: `ARG0` and `ARG1` side by side are the 64 bits fed. -/
theorem crc8OfArguments : Obligations.Crc8OfArguments := by
  refine ⟨fun s h => ⟨rfl, ?_⟩, by decide, crc8Of_one⟩
  rw [exec, execCrc8U64, whenIdle_of_idle h, ofNat_words]

/-- The bit of the input from which on a form has bits of the first header word (R217). -/
def crc8FirstBit : Crc8Base → Nat
  | .baseB => 30
  | .baseA => 32

/-- The input bit by bit: the second header word without its last 8 bits, then zeros up to the form's first bit of the
first header word (R217). -/
theorem getLsbD_crc8Base (form : Crc8Base) (w0 w1 : Word) {k : Nat} (hk : k < 64) :
    (crc8Base form w0 w1).getLsbD k
      = if k < 24 then w1.getLsbD (8 + k) else decide (crc8FirstBit form ≤ k) && w0.getLsbD (k - 24) := by
  have hsecond : (w1 >>> 8).getLsbD k = if k < 24 then w1.getLsbD (8 + k) else false := by
    rw [BitVec.getLsbD_ushiftRight]
    split
    · rfl
    · exact BitVec.getLsbD_of_ge w1 (8 + k) (by omega)
  cases form with
  | baseB =>
    have hmask : ∀ j < 32, (0xFFFFFFC0#32).getLsbD j = decide (30 ≤ 24 + j) := by decide
    rw [crc8Base, BitVec.getLsbD_or, BitVec.getLsbD_shiftLeft, BitVec.getLsbD_setWidth, BitVec.getLsbD_setWidth,
      BitVec.getLsbD_and, hsecond, crc8FirstBit]
    split
    · simp [*]
    · by_cases hj : k - 24 < 32
      · rw [hmask _ hj, Nat.add_sub_cancel' (by omega), Bool.and_comm (w0.getLsbD _)]
        simp [*, show k - 24 < 64 by omega]
      · rw [BitVec.getLsbD_of_ge w0 (k - 24) (by omega)]
        simp
  | baseA =>
    rw [crc8Base, BitVec.getLsbD_or, BitVec.getLsbD_shiftLeft, BitVec.getLsbD_setWidth, BitVec.getLsbD_setWidth,
      BitVec.getLsbD_ushiftRight, hsecond, crc8FirstBit]
    by_cases h : 32 ≤ k
    · simp [*, show 8 + (k - 32) = k - 24 by omega, show ¬k < 24 by omega, show ¬k < 32 by omega,
        show k - 32 < 64 by omega]
    · simp [*, show k < 32 by omega]

/-- A range of the input is the word with those bits (R217). -/
theorem extractLsb'_crc8Base (form : Crc8Base) (w0 w1 : Word) (i n : Nat) (h : i + n ≤ 64) {v : BitVec n}
    (hv : ∀ k < n,
      (if i + k < 24 then w1.getLsbD (8 + (i + k)) else decide (crc8FirstBit form ≤ i + k) && w0.getLsbD (i + k - 24))
        = v.getLsbD k) :
    (crc8Base form w0 w1).extractLsb' i n = v := by
  apply BitVec.eq_of_getLsbD_eq
  intro k hk
  rw [BitVec.getLsbD_extractLsb', decide_eq_true hk, Bool.true_and, getLsbD_crc8Base _ _ _ (by omega)]
  exact hv k hk

/-- Settles O26: each range of the input bit by bit; bits 6 and 7 of the first word are the two form B has more. -/
theorem crc8BaseLayout : Obligations.Crc8BaseLayout := by
  have range := extractLsb'_crc8Base .baseB
  refine ⟨fun w0 w1 => ⟨range w0 w1 56 8 (by decide) fun k hk => ?top, range w0 w1 30 26 (by decide) fun k hk => ?first,
    range w0 w1 24 6 (by decide) fun k hk => ?gap, range w0 w1 0 24 (by decide) fun k hk => ?second, ?formA⟩,
    by decide, by decide⟩
  case top =>
    rw [if_neg (by omega), BitVec.getLsbD_of_ge w0 _ (by omega), Bool.and_false, BitVec.getLsbD_zero]
  case first =>
    rw [if_neg (by omega), BitVec.getLsbD_extractLsb', crc8FirstBit, decide_eq_true (by omega), decide_eq_true hk,
      show 30 + k - 24 = 6 + k by omega]
  case gap =>
    rw [if_neg (by omega), crc8FirstBit, decide_eq_false (by omega), Bool.false_and, BitVec.getLsbD_zero]
  case second => rw [if_pos (by omega), BitVec.getLsbD_extractLsb', decide_eq_true hk, Nat.zero_add, Bool.true_and]
  case formA =>
    have hmask : ∀ j < 32, (decide (30 ≤ 24 + j) && (0xFFFFFF3F#32).getLsbD j) = decide (32 ≤ 24 + j) := by decide
    apply BitVec.eq_of_getLsbD_eq
    intro k hk
    rw [getLsbD_crc8Base _ _ _ hk, getLsbD_crc8Base _ _ _ hk, BitVec.getLsbD_and, crc8FirstBit, crc8FirstBit]
    split
    · rfl
    · by_cases hj : k - 24 < 32
      · have hbit := hmask _ hj
        rw [Nat.add_sub_cancel' (by omega)] at hbit
        rw [← hbit, Bool.and_assoc, Bool.and_comm (w0.getLsbD _)]
      · rw [BitVec.getLsbD_of_ge w0 (k - 24) (by omega), Bool.false_and, Bool.and_false, Bool.and_false]

end Sys2Proof.Machine

/-! PROOFS of the family 45_econd_packet, second part: a sub-packet's decode whatever was logged before it, the links of
a packet one behind the other, and the packet they make (R212, R219 to R226). -/

namespace Sys2Proof.Machine

/-! ### Structural errors -/

/-- A decode's error is the instruction's, whatever it has logged and drawn before it (R303). -/
theorem takesError_of_stop {i : Instr} {s : State} {e : Raise} {c : Acc}
    (h : exec i s = .next (abort (destOf i) (faultNumber i) e (s.withAcc c))) : TakesError i s e.kind e.info :=
  ⟨_, h, ⟨rfl, rfl, rfl⟩, raised_faultFrame (fun _ => ⟨rfl, rfl⟩) _ e c⟩

theorem TakesError.fault_of_exec {i : Instr} {s t : State} {k : FaultKind} {n : Nat} (h : TakesError i s k n)
    (ht : exec i s = .next t) : t.fault = some k := by
  obtain ⟨t', hexec, ⟨hkind, -⟩, -⟩ := h
  cases hexec.symm.trans ht
  exact hkind

/-- The number an error leaves in `FAULT_INFO` is the number of the same error. -/
theorem TakesError.of_faultInfo {i : Instr} {s : State} {k : FaultKind} {n : Nat} (h : TakesError i s k n) :
    TakesError i s k (BitVec.ofNat 32 n).toNat := by
  obtain ⟨t, hexec, ⟨hkind, hinfo, hop⟩, hframe⟩ := h
  exact ⟨t, hexec, ⟨hkind, hinfo.trans (by rw [BitVec.ofNat_toNat, BitVec.setWidth_eq]), hop⟩, hframe⟩

/-! ### A sub-packet's decode, whatever was logged before -/

/-- The known invalid code logged, where `b` (R192). -/
def Acc.logInvalid (c : Acc) (b : Bool) : Acc := { c with log := c.log.setInvalidCode b }

theorem Acc.logInvalid_false (c : Acc) : c.logInvalid false = c := by
  rw [Acc.logInvalid, Log.setInvalidCode_false]

theorem Acc.logInvalid_logInvalid (c : Acc) (a b : Bool) : (c.logInvalid a).logInvalid b = c.logInvalid (a || b) := by
  simp only [Acc.logInvalid, Log.setInvalidCode_setInvalidCode]

/-- A record whose slots have no code logs nothing. -/
theorem Acc.logInvalid_of_no_codes {d : Link} (h : d.code = Vector.replicate 37 0#4) (c : Acc) :
    c.logInvalid (hasInvalidCode d) = c := by
  have hcodes : hasInvalidCode d = false := by
    rw [hasInvalidCode, h]
    decide
  rw [hcodes, Acc.logInvalid_false]

/-- The sub-packet in the span decodes to `d`, whatever was logged before, and logs its own invalid code (R175,
R192). -/
def UnpacksTo (s : State) (d : Link) : Prop :=
  ∀ c, unpackSubpacket s.params (spanWords s) (argPassthrough s) c = .done d (c.logInvalid (hasInvalidCode d))

/-- The sub-packet in the span raises `e`, whatever was logged before (R191). -/
def UnpackRaises (s : State) (e : Raise) : Prop :=
  ∀ c, ∃ c', unpackSubpacket s.params (spanWords s) (argPassthrough s) c = .stop e c'

/-- Where the records do not end within the span, one that is present reaches past its end and raises (R191). -/
theorem exists_cut_record {s : State} (h : 2 ≤ s.spanLen) (hcut : 32 * s.spanLen < slotPos s 37) :
    ∃ k < 37, slotPos s k ≤ 32 * s.spanLen ∧ present s.params.chmapOrder (chmapOf s) k = true
      ∧ ∃ e, readRecord (spanWords s) (slotPos s k) = .error e := by
  obtain ⟨k, hk, hpos, hnext⟩ : ∃ k < 37, slotPos s k ≤ 32 * s.spanLen ∧ 32 * s.spanLen < slotPos s (k + 1) := by
    by_contra hno
    push Not at hno
    have hall (j : Nat) (hj : j ≤ 37) : slotPos s j ≤ 32 * s.spanLen := by
      induction j with
      | zero => rw [slotPos]; omega
      | succ j ih => exact hno j hj (ih (Nat.le_of_succ_le hj))
    exact absurd (hall 37 (Nat.le_refl 37)) (Nat.not_le.2 hcut)
  have hp : present s.params.chmapOrder (chmapOf s) k = true := by
    by_contra ha
    rw [slotPos_of_absent (Bool.eq_false_iff.2 ha)] at hnext
    exact Nat.not_le.2 hnext hpos
  rw [slotPos_of_present hp, ← length_spanWords] at hnext
  refine ⟨k, hk, hpos, hp, ?_⟩
  by_cases hlook : slotPos s k + 4 ≤ 32 * (spanWords s).length
  · exact ⟨_, readRecord_of_rest_short hlook hnext⟩
  · exact ⟨_, readRecord_of_look_short (Nat.lt_of_not_le hlook)⟩

section
variable {s : State} (hlen : 2 ≤ s.spanLen) (he : (spanWord s 0).getLsbD 25 = false)
include hlen he

/-- Without passthrough: the records end within the span, or one of them is cut (R175, R191). -/
theorem unpacks_or_raises_of_zeroSuppressed (hpt : argPassthrough s = false) :
    (∃ d, UnpacksTo s d) ∨ ∃ e, UnpackRaises s e := by
  have hw0 : wordAt (spanWords s) 0 = spanWord s 0 := wordAt_spanWords (by omega)
  have hw1 : wordAt (spanWords s) 1 = spanWord s 1 := wordAt_spanWords (by omega)
  have hrun (c : Acc) := unpackSubpacket_of_zeroSuppressed (pr := s.params) c ((length_spanWords s).symm ▸ hlen)
    (hw0 ▸ he)
  rw [← hpt, hw0, hw1] at hrun
  by_cases hfit : slotPos s 37 ≤ 32 * s.spanLen
  · refine .inl ⟨decodedRecord s, fun c => ?_⟩
    have hslots := unpackSlots_reaches (d := headedRecord (spanWord s 0) (spanWord s 1)) rfl rfl c (Nat.le_refl 37) hfit
    rw [Nat.sub_self, unpackSlots] at hslots
    rw [hrun, hslots, roundUp, fillSlots_all, hasInvalidCode_of_codes fun k hk => code_decodedRecord s hk,
      Acc.logInvalid]
  · obtain ⟨k, hk, hpos, hp, e, hread⟩ := exists_cut_record hlen (Nat.lt_of_not_le hfit)
    refine .inr ⟨e, fun c => ?_⟩
    obtain ⟨c', hslots⟩ := unpackSlots_of_error (d := headedRecord (spanWord s 0) (spanWord s 1)) rfl rfl c hk hpos hp
      hread
    exact ⟨c', by rw [hrun, hslots, roundUp]⟩

/-- In passthrough: the span has the 37 words, or not (R180). -/
theorem unpacks_or_raises_of_passthrough (hpt : argPassthrough s = true) :
    (∃ d, UnpacksTo s d) ∨ ∃ e, UnpackRaises s e := by
  have hw0 : wordAt (spanWords s) 0 = spanWord s 0 := wordAt_spanWords (by omega)
  have hrun (c : Acc) := unpackSubpacket_of_passthrough (pr := s.params) c ((length_spanWords s).symm ▸ hlen)
    (hw0 ▸ he)
  rw [← hpt, headedRecord, passthroughRecord_eq] at hrun
  by_cases hshort : (spanWords s).length < PtHeader.words s.params.ptHeader + 37
  · exact .inr ⟨_, fun c => ⟨c, (hrun c).trans (if_pos hshort)⟩⟩
  · refine .inl ⟨passthroughRecord s.params.ptHeader (spanWords s) (openRecord (wordAt (spanWords s) 0))
      (headedRecord (wordAt (spanWords s) 0) (wordAt (spanWords s) 1)), fun c => ?_⟩
    rw [hrun, if_neg hshort, headedRecord, passthroughRecord_eq, Acc.logInvalid_of_no_codes rfl]

end

/-- Every sub-packet either decodes to one record or raises one error, whatever was logged before it (R175). -/
theorem unpacks_or_raises (s : State) : (∃ d, UnpacksTo s d) ∨ ∃ e, UnpackRaises s e := by
  have hlen := length_spanWords s
  by_cases h0 : s.spanLen = 0
  · exact .inr ⟨_, fun c => ⟨c, unpackSubpacket_of_no_word c (hlen.trans h0)⟩⟩
  have hw0 : wordAt (spanWords s) 0 = spanWord s 0 := wordAt_spanWords (Nat.pos_of_ne_zero h0)
  cases he : (spanWord s 0).getLsbD 25 with
  | true =>
    refine .inl ⟨openRecord (spanWord s 0), fun c => ?_⟩
    rw [Acc.logInvalid_of_no_codes rfl, ← hw0, unpackSubpacket_of_empty c (hlen.symm ▸ h0) (hw0 ▸ he)]
  | false =>
    by_cases h1 : s.spanLen = 1
    · exact .inr ⟨_, fun c => ⟨c, unpackSubpacket_of_one_word c (hlen.trans h1) (hw0 ▸ he)⟩⟩
    cases hpt : argPassthrough s with
    | false => exact unpacks_or_raises_of_zeroSuppressed (by omega) he hpt
    | true => exact unpacks_or_raises_of_passthrough (by omega) he hpt

theorem UnpacksTo.nwords_le {s : State} {d : Link} (h : UnpacksTo s d) : d.nwords ≤ s.spanLen := by
  have hwords := (unpackSubpacket_nwords (h s.acc)).2
  rwa [length_spanWords] at hwords

section
variable {s u : State} (hr : Ready s) (h : exec .erxUnpack s = .next u)
include hr h

/-- `ERX_UNPACK` that raises nothing has decoded its record (R175). -/
theorem UnpacksTo.of_exec (hu : u.fault = none) : UnpacksTo s u.erx ∧ u.erxConsumed = u.erx.nwords := by
  obtain ⟨d, hd⟩ | ⟨e, he⟩ := unpacks_or_raises s
  · cases (exec_erxUnpack_of_done hr (hd s.acc)).symm.trans h
    exact ⟨hd, rfl⟩
  · obtain ⟨c, hrun⟩ := he s.acc
    cases ((takesError_erxUnpack_of_stop hr hrun).fault_of_exec h).symm.trans hu

/-- `ERX_UNPACK` that raises has met the error of its decode (R191, R303). -/
theorem UnpackRaises.of_exec {k : FaultKind} (hu : u.fault = some k) :
    ∃ e, UnpackRaises s e ∧ k = e.kind ∧ u.faultInfo = BitVec.ofNat 32 e.info := by
  obtain ⟨d, hd⟩ | ⟨e, he⟩ := unpacks_or_raises s
  · cases (exec_erxUnpack_of_done hr (hd s.acc)).symm.trans h
    cases hr.1.symm.trans hu
  · obtain ⟨c, hrun⟩ := he s.acc
    obtain ⟨t, hexec, ⟨hkind, hinfo, -⟩, -⟩ := takesError_erxUnpack_of_stop hr hrun
    cases hexec.symm.trans h
    exact ⟨e, he, Option.some.inj (hu.symm.trans hkind), hinfo⟩

end

/-! ### The links of a packet -/

/-- The words left at a link are those of the span it is unpacked from (R221). -/
theorem spanWords_atLink {s : State} {off : Nat} (h : off ≤ s.spanLen) (pt : Bool) :
    spanWords (atLink off pt s) = (spanWords s).drop off := by
  have hwords := spanWords_withSpan (Nat.le_of_eq (Nat.add_sub_cancel' h))
  rwa [List.take_of_length_le (by rw [List.length_drop, length_spanWords])] at hwords

theorem ready_atLink {s : State} (hr : Ready s) {off : Nat} (h : off ≤ s.spanLen) (pt : Bool) :
    Ready (atLink off pt s) := by
  obtain ⟨hidle, hspan⟩ := hr
  refine ⟨hidle, ?_⟩
  simp only [atLink, withSpan]
  omega

theorem argPassthrough_atLink (off : Nat) (pt : Bool) (s : State) : argPassthrough (atLink off pt s) = pt := by
  change (if pt then 1#32 else 0#32).getLsbD 0 = pt
  cases pt <;> decide

/-- The first `n` links of the packet in the span, in the packet's mode: link `i` starts at word `off i` and decodes to
`d i`, and the next one starts behind it (R221). -/
structure LinksAre (s : State) (pt : Bool) (n : Nat) (off : Nat → Nat) (d : Nat → Link) : Prop where
  start : off 0 = 2
  unpacks : ∀ i < n, UnpacksTo (atLink (off i) pt s) (d i)
  next : ∀ i < n, off (i + 1) = off i + (d i).nwords

/-- The record of the link at word `off` of the packet in the span, where it decodes. -/
def linkAt (s : State) (pt : Bool) (off : Nat) : Link :=
  match unpackSubpacket s.params (spanWords (atLink off pt s)) (argPassthrough (atLink off pt s)) s.acc with
  | .done d _ => d
  | .stop _ _ => Link.zero

theorem linkAt_of_unpacksTo {s : State} {pt : Bool} {off : Nat} {d : Link} (h : UnpacksTo (atLink off pt s) d) :
    linkAt s pt off = d := by
  have hrun := h s.acc
  rw [linkAt]
  exact hrun ▸ rfl

/-- The word at which link `i` of the packet in the span starts, where the links before it decode (R221). -/
def linkOff (s : State) (pt : Bool) : Nat → Nat
  | 0 => 2
  | i + 1 => linkOff s pt i + (linkAt s pt (linkOff s pt i)).nwords

section
variable {s : State} {pt : Bool} {n : Nat} {off : Nat → Nat} {d : Nat → Link}

theorem LinksAre.zero (h : off 0 = 2) : LinksAre s pt 0 off d :=
  ⟨h, fun _ hi => absurd hi (Nat.not_lt_zero _), fun _ hi => absurd hi (Nat.not_lt_zero _)⟩

theorem LinksAre.succ (h : LinksAre s pt n off d) (hd : UnpacksTo (atLink (off n) pt s) (d n))
    (hnext : off (n + 1) = off n + (d n).nwords) : LinksAre s pt (n + 1) off d where
  start := h.start
  unpacks := Nat.forall_lt_succ_right.2 ⟨h.unpacks, hd⟩
  next := Nat.forall_lt_succ_right.2 ⟨h.next, hnext⟩

theorem LinksAre.upTo {m : Nat} (hm : m ≤ n) (h : LinksAre s pt n off d) : LinksAre s pt m off d :=
  ⟨h.start, fun i hi => h.unpacks i (hi.trans_le hm), fun i hi => h.next i (hi.trans_le hm)⟩

/-- The links lie in the span. -/
theorem LinksAre.off_le (h : LinksAre s pt n off d) (hlen : 2 ≤ s.spanLen) : off n ≤ s.spanLen := by
  induction n with
  | zero => exact h.start ▸ hlen
  | succ n ih =>
    have hstart := ih (h.upTo n.le_succ)
    have hwords : (d n).nwords ≤ s.spanLen - off n := (h.unpacks n (Nat.lt_succ_self n)).nwords_le
    rw [h.next n (Nat.lt_succ_self n)]
    omega

/-- Either all links of a packet decode, or those before one that raises do (R221). -/
theorem links_decode_or_raise (s : State) (pt : Bool) (n : Nat) :
    LinksAre s pt n (linkOff s pt) (fun i => linkAt s pt (linkOff s pt i))
      ∨ ∃ m < n, LinksAre s pt m (linkOff s pt) (fun i => linkAt s pt (linkOff s pt i))
          ∧ ∃ e, UnpackRaises (atLink (linkOff s pt m) pt s) e := by
  induction n with
  | zero => exact .inl (LinksAre.zero rfl)
  | succ n ih =>
    obtain hall | ⟨m, hm, hraise⟩ := ih
    · obtain ⟨d, hd⟩ | hraise := unpacks_or_raises (atLink (linkOff s pt n) pt s)
      · exact .inl (hall.succ (linkAt_of_unpacksTo hd ▸ hd) rfl)
      · exact .inr ⟨n, Nat.lt_succ_self n, hall, hraise⟩
    · exact .inr ⟨m, Nat.lt_succ_of_lt hm, hraise⟩

/-- A link of the packet has the known invalid code (R192). -/
def anyInvalidCode (n : Nat) (d : Nat → Link) : Bool := (List.range n).any fun i => hasInvalidCode (d i)

theorem anyInvalidCode_succ (n : Nat) (d : Nat → Link) :
    anyInvalidCode (n + 1) d = (anyInvalidCode n d || hasInvalidCode (d n)) := by
  simp [anyInvalidCode, List.range_succ]

/-- The links before a run of the link loop put in front of the run's own. -/
def prependLinks (ds : List Link) : Run (List Link × Nat) → Run (List Link × Nat)
  | .done (ds', off) c => .done (ds ++ ds', off) c
  | .stop e c => .stop e c

theorem prependLinks_nil (r : Run (List Link × Nat)) : prependLinks [] r = r := by
  cases r <;> rfl

theorem prependLinks_prependLinks (ds ds' : List Link) (r : Run (List Link × Nat)) :
    prependLinks ds (prependLinks ds' r) = prependLinks (ds ++ ds') r := by
  cases r with
  | done a c => simp only [prependLinks, List.append_assoc]
  | stop e c => rfl

/-- One round of the link loop (R221, R222). -/
theorem unpackLinks_succ {e : Econd} (hpt : e.passthrough = pt) {x : Link} {o : Nat} (ho : o ≤ s.spanLen)
    (hx : UnpacksTo (atLink o pt s) x) (k : Nat) (c : Acc) :
    unpackLinks s.params (spanWords s) e (k + 1) o c
      = prependLinks [stampLink e x]
          (unpackLinks s.params (spanWords s) e k (o + x.nwords) (c.logInvalid (hasInvalidCode x))) := by
  have hrun := hx c
  rw [spanWords_atLink ho, argPassthrough_atLink, ← hpt] at hrun
  rw [unpackLinks, show unpackSubpacket s.params ((spanWords s).drop o) e.passthrough c = _ from hrun]
  generalize hrest : unpackLinks s.params (spanWords s) e k (o + x.nwords) (c.logInvalid (hasInvalidCode x)) = rest
  simp only [hrest]
  cases rest <;> rfl

/-- The link loop in the middle: the links that decode are passed, stamped, in order (R221, R222). -/
theorem unpackLinks_reaches {e : Econd} (hpt : e.passthrough = pt) (hlen : 2 ≤ s.spanLen) (h : LinksAre s pt n off d)
    (k : Nat) (c : Acc) :
    unpackLinks s.params (spanWords s) e (n + k) 2 c
      = prependLinks ((List.range n).map fun i => stampLink e (d i))
          (unpackLinks s.params (spanWords s) e k (off n) (c.logInvalid (anyInvalidCode n d))) := by
  induction n generalizing k with
  | zero =>
    rw [h.start, Nat.zero_add, show anyInvalidCode 0 d = false from rfl, Acc.logInvalid_false, List.range_zero,
      List.map_nil, prependLinks_nil]
  | succ n ih =>
    have hx := h.unpacks n (Nat.lt_succ_self n)
    rw [Nat.add_assoc, Nat.add_comm 1 k, ih (h.upTo n.le_succ),
      unpackLinks_succ hpt ((h.upTo n.le_succ).off_le hlen) hx, prependLinks_prependLinks,
      ← h.next n (Nat.lt_succ_self n), Acc.logInvalid_logInvalid, ← anyInvalidCode_succ, List.range_succ,
      List.map_append, List.map_singleton]

/-- The link loop raises what a link's decode raises (R221, R225). -/
theorem unpackLinks_of_raise {e : Econd} (hpt : e.passthrough = pt) (hlen : 2 ≤ s.spanLen) {m : Nat} (hm : m < n)
    (h : LinksAre s pt m off d) {r : Raise} (hr : UnpackRaises (atLink (off m) pt s) r) (c : Acc) :
    ∃ c', unpackLinks s.params (spanWords s) e n 2 c = .stop r c' := by
  obtain ⟨c', hrun⟩ := hr (c.logInvalid (anyInvalidCode m d))
  rw [spanWords_atLink (h.off_le hlen), argPassthrough_atLink, ← hpt] at hrun
  refine ⟨c', ?_⟩
  rw [show n = m + (n - m - 1 + 1) by omega, unpackLinks_reaches hpt hlen h, unpackLinks,
    show unpackSubpacket s.params ((spanWords s).drop (off m)) e.passthrough _ = _ from hrun]
  rfl

end

/-! ### The packet -/

section
variable {s : State} (hr : Ready s)
include hr

theorem exec_econdFrom_of_done {e : Econd} {l : Log} {n : Nat}
    (hrun : econdFrom s.params (configuredLinks s) (spanWords s) s.acc = .done e ⟨l, n⟩) :
    exec .econdFrom s = .next { s with econd := e, log := l, draws := n } := by
  rw [exec, execEcondFrom, onSpan_of_ready hr, hrun]
  rfl

theorem takesError_econdFrom_of_stop {e : Raise} {c : Acc}
    (hrun : econdFrom s.params (configuredLinks s) (spanWords s) s.acc = .stop e c) :
    TakesError .econdFrom s e.kind e.info := by
  refine takesError_of_stop (c := c) ?_
  rw [exec, execEcondFrom, onSpan_of_ready hr, hrun]
  rfl

end

/-- The record of the packet in the span after its header (R212). -/
def packetHeader (s : State) (draws : Nat) : Econd :=
  econdHeader s.params (configuredLinks s) draws (spanWord s 0) (spanWord s 1)

/-- What follows the link loop (R223 to R226). -/
def closePacket (ws : List Word) (e : Econd) : Run (List Link × Nat) → Run Econd
  | .stop r c => .stop r c
  | .done (links, off) c =>
    if ws.length ≤ off then .stop ⟨.lengthError, off⟩ c
    else
      .done (applyEcondTrl ws off (wordAt ws off) { e with links := links })
        { c with log := c.log.setHdrWarn (econdWarn (applyEcondTrl ws off (wordAt ws off) { e with links := links })) }

/-- The header's check (R212, R217). -/
theorem packetHeader_crcFlag (s : State) (draws : Nat) :
    (packetHeader s draws).corruption[2]
      = decide (headerCrc8 s.params (spanWord s 0) (spanWord s 1) ≠ (spanWord s 1).extractLsb' 0 8) := by
  have h0 := econdWord0_of_fields (spanWord s 0) (Econd.zero (configuredLinks s))
  have h1 := econdWord1_of_fields (spanWord s 1)
  change headerCrcFlag s.params (econdWord0 _) (econdWord1 _ _ _ _ _ _) _ = _
  rw [h0, h1, headerCrcFlag]

/-- The record of the packet in the span: the header, the links stamped, the trailer with its check (R212). -/
def packetRecord (s : State) (draws : Nat) (off : Nat → Nat) (d : Nat → Link) : Econd :=
  applyEcondTrl (spanWords s) (off (configuredLinks s)) (spanWord s (off (configuredLinks s)))
    { packetHeader s draws with
      links := (List.range (configuredLinks s)).map fun i => stampLink (packetHeader s draws) (d i) }

section
variable {s : State} (hlen : 2 ≤ s.spanLen)

theorem econdFrom_of_short (h : s.spanLen < 2) (c : Acc) :
    econdFrom s.params (configuredLinks s) (spanWords s) c = .stop ⟨.lengthError, s.spanLen⟩ c := by
  rw [econdFrom, length_spanWords, if_pos h]

include hlen

theorem packetHeader_eq (draws : Nat) :
    econdHeader s.params (configuredLinks s) draws (wordAt (spanWords s) 0) (wordAt (spanWords s) 1)
      = packetHeader s draws := by
  rw [wordAt_spanWords (by omega), wordAt_spanWords (by omega), packetHeader]

/-- A truncated packet is its header (R219). -/
theorem econdFrom_of_truncated (ht : (spanWord s 0).getLsbD 6 = true) (c : Acc) :
    econdFrom s.params (configuredLinks s) (spanWords s) c
      = .done (packetHeader s c.draws) ⟨c.log.setHdrWarn (packetHeader s c.draws).corruption[2], c.draws + 2⟩ := by
  have htrunc : (packetHeader s c.draws).truncated = true := ht
  rw [econdFrom, length_spanWords, if_neg (Nat.not_lt.2 hlen), packetHeader_eq hlen]
  refine (if_pos htrunc).trans ?_
  rw [packetHeader, econdHeader, econdWarn_applyEcondHdr1]

section
variable (ht : (spanWord s 0).getLsbD 6 = false) {off : Nat → Nat} {d : Nat → Link}
include ht

/-- A packet that is not truncated is its header, the link loop and what follows it (R212). -/
theorem econdFrom_of_not_truncated (c : Acc) :
    econdFrom s.params (configuredLinks s) (spanWords s) c
      = closePacket (spanWords s) (packetHeader s c.draws)
          (unpackLinks s.params (spanWords s) (packetHeader s c.draws) (configuredLinks s) 2
            { c with draws := c.draws + 2 }) := by
  have htrunc : (packetHeader s c.draws).truncated ≠ true := ne_true_of_eq_false ht
  rw [econdFrom, length_spanWords, if_neg (Nat.not_lt.2 hlen), packetHeader_eq hlen]
  refine (if_neg htrunc).trans ?_
  generalize unpackLinks s.params (spanWords s) _ _ _ _ = run
  cases run with
  | done a c' => simp only [closePacket, length_spanWords]
  | stop e c' => rfl

/-- The link loop's error is the packet's (R225). -/
theorem econdFrom_of_link_raise {m : Nat} (hm : m < configuredLinks s)
    (h : LinksAre s ((spanWord s 0).getLsbD 13) m off d) {r : Raise}
    (hraise : UnpackRaises (atLink (off m) ((spanWord s 0).getLsbD 13) s) r) (c : Acc) :
    ∃ c', econdFrom s.params (configuredLinks s) (spanWords s) c = .stop r c' := by
  obtain ⟨c', hrun⟩ := unpackLinks_of_raise (e := packetHeader s c.draws) rfl hlen hm h hraise
    { c with draws := c.draws + 2 }
  exact ⟨c', by rw [econdFrom_of_not_truncated hlen ht, hrun, closePacket]⟩

/-- With all links decoded the trailer is the next word, or is missing (R223). -/
theorem econdFrom_of_links (h : LinksAre s ((spanWord s 0).getLsbD 13) (configuredLinks s) off d) (c : Acc) :
    econdFrom s.params (configuredLinks s) (spanWords s) c
      = if s.spanLen ≤ off (configuredLinks s) then
          .stop ⟨.lengthError, off (configuredLinks s)⟩
            ⟨c.log.setInvalidCode (anyInvalidCode (configuredLinks s) d), c.draws + 2⟩
        else
          .done (packetRecord s c.draws off d)
            ⟨(c.log.setInvalidCode (anyInvalidCode (configuredLinks s) d)).setHdrWarn
              (econdWarn (packetRecord s c.draws off d)), c.draws + 2⟩ := by
  have hlinks := unpackLinks_reaches (e := packetHeader s c.draws) rfl hlen h 0 { c with draws := c.draws + 2 }
  rw [Nat.add_zero, unpackLinks, prependLinks, List.append_nil] at hlinks
  rw [econdFrom_of_not_truncated hlen ht, hlinks, closePacket, length_spanWords]
  split
  · rfl
  · rw [wordAt_spanWords (by omega)]
    rfl

end

end

/-- Settles O37: the header is the whole packet. -/
theorem econdTruncatedStopsAtHeader : Obligations.EcondTruncatedStopsAtHeader := by
  intro s hr hlen ht
  have hnwords : (packetHeader s s.draws).nwords = 2 := if_pos ht
  exact ⟨rfl, _, exec_econdFrom_of_done hr (econdFrom_of_truncated hlen ht s.acc), rfl,
    econdHeaderOf_econdHeader .., packetHeader_crcFlag s s.draws, rfl, rfl, hnwords, rfl⟩

/-! ### The record of a packet -/

section
variable (s : State) (draws : Nat) (off : Nat → Nat) (d : Nat → Link)

theorem econdHeaderOf_packetRecord : EcondHeaderOf (packetRecord s draws off d) (spanWord s 0) (spanWord s 1) :=
  econdHeaderOf_econdHeader s.params (configuredLinks s) draws (spanWord s 0) (spanWord s 1)

theorem packetRecord_headerFlag :
    (packetRecord s draws off d).corruption[2]
      = decide (headerCrc8 s.params (spanWord s 0) (spanWord s 1) ≠ (spanWord s 1).extractLsb' 0 8) := by
  rw [← packetHeader_crcFlag s draws]
  exact Vector.getElem_set_ne (i := 3) (j := 2) (by decide) (by decide) (by decide)

theorem packetRecord_trailerFlag (h : off (configuredLinks s) ≤ s.spanLen) :
    (packetRecord s draws off d).corruption[3]
      = decide
          (crc32Of ((List.range (off (configuredLinks s) - 2)).map fun k => spanWord s (2 + k))
            ≠ spanWord s (off (configuredLinks s))) := by
  rw [← trailerCrcFlag_spanWords h]
  exact Vector.getElem_set_self _

theorem packetRecord_link {i : Nat} (hi : i < configuredLinks s) :
    (packetRecord s draws off d).links[i]? = some (stampLink (packetRecord s draws off d) (d i)) := by
  change ((List.range (configuredLinks s)).map fun i => stampLink (packetHeader s draws) (d i))[i]? = _
  rw [List.getElem?_map, List.getElem?_range hi]
  rfl

/-- Stamping a link leaves its codes (R222). -/
theorem packetRecord_anyInvalid :
    (packetRecord s draws off d).links.any hasInvalidCode = anyInvalidCode (configuredLinks s) d :=
  List.any_map

end

/-! ### `ECOND_FROM` -/

section
variable {s : State} (hr : Ready s) (hlen : 2 ≤ s.spanLen)
include hr

/-- `ERX_UNPACK` at a link of the packet is the link's decode (R221). -/
theorem exec_atLink_of_unpacksTo {off : Nat} (ho : off ≤ s.spanLen) {pt : Bool} {d : Link}
    (hd : UnpacksTo (atLink off pt s) d) :
    ∃ u, exec .erxUnpack (atLink off pt s) = .next u ∧ u.fault = none ∧ u.erxConsumed = d.nwords ∧ u.erx = d :=
  ⟨_, exec_erxUnpack_of_done (ready_atLink hr ho pt) (hd _), hr.1, rfl, rfl⟩

include hlen

/-- Links that `ERX_UNPACK` unpacks one behind the other are the links of the packet (R221). -/
theorem LinksAre.of_exec {pt : Bool} {m : Nat} {off : Nat → Nat} {u : Nat → State} (h0 : off 0 = 2)
    (h : ∀ i, i < m →
      exec .erxUnpack (atLink (off i) pt s) = .next (u i) ∧ (u i).fault = none
        ∧ off (i + 1) = off i + (u i).erxConsumed) :
    LinksAre s pt m off fun i => (u i).erx := by
  induction m with
  | zero => exact LinksAre.zero h0
  | succ m ih =>
    have hlinks := ih fun i hi => h i (Nat.lt_succ_of_lt hi)
    obtain ⟨hexec, hfault, hnext⟩ := h m (Nat.lt_succ_self m)
    obtain ⟨hd, hwords⟩ := UnpacksTo.of_exec (ready_atLink hr (hlinks.off_le hlen) pt) hexec hfault
    exact hlinks.succ hd (hwords ▸ hnext)

variable (ht : (spanWord s 0).getLsbD 6 = false) {off : Nat → Nat} {d : Nat → Link}
include ht

/-- With all links decoded and a word behind them `ECOND_FROM` completes (R212, R220 to R226). -/
theorem econdDecoded_of_links (h : LinksAre s ((spanWord s 0).getLsbD 13) (configuredLinks s) off d)
    (hroom : off (configuredLinks s) < s.spanLen) : ∃ t, exec .econdFrom s = .next t ∧ EcondDecoded s t := by
  have hrun := econdFrom_of_links hlen ht h s.acc
  rw [if_neg (Nat.not_le.2 hroom)] at hrun
  refine ⟨_, exec_econdFrom_of_done hr hrun, off, rfl, econdHeaderOf_packetRecord s s.draws off d,
    packetRecord_headerFlag s s.draws off d, ?count, h.start, fun i hi => ?link, rfl,
    packetRecord_trailerFlag s s.draws off d hroom.le, rfl, ?log⟩
  case count => exact (List.length_map _).trans List.length_range
  case link =>
    obtain ⟨u, hu, hfault, hwords, herx⟩ :=
      exec_atLink_of_unpacksTo hr ((h.upTo (Nat.le_of_lt hi)).off_le hlen) (h.unpacks i hi)
    exact ⟨u, hu, hfault, by rw [h.next i hi, hwords], herx ▸ packetRecord_link s s.draws off d hi⟩
  case log =>
    rw [packetRecord_anyInvalid]
    rfl

end

/-- Settles O38: a packet with room for every link completes; one that completes has all its links decoded and a word
behind them, for it raises otherwise. -/
theorem econdFromUnpacksLinks : Obligations.EcondFromUnpacksLinks := by
  intro s hr hlen ht
  have hdecoded (t : State) (hexec : exec .econdFrom s = .next t) (hfault : t.fault = none) : EcondDecoded s t := by
    have hno {k : FaultKind} {n : Nat} (herr : TakesError .econdFrom s k n) : EcondDecoded s t := by
      cases (herr.fault_of_exec hexec).symm.trans hfault
    obtain hlinks | ⟨m, hm, hlinks, e, hraise⟩ :=
      links_decode_or_raise s ((spanWord s 0).getLsbD 13) (configuredLinks s)
    · by_cases hroom : linkOff s ((spanWord s 0).getLsbD 13) (configuredLinks s) < s.spanLen
      · obtain ⟨t', hexec', hdec⟩ := econdDecoded_of_links hr hlen ht hlinks hroom
        cases hexec'.symm.trans hexec
        exact hdec
      · have hrun := (econdFrom_of_links hlen ht hlinks s.acc).trans (if_pos (Nat.le_of_not_lt hroom))
        exact hno (takesError_econdFrom_of_stop hr hrun)
    · obtain ⟨c, hrun⟩ := econdFrom_of_link_raise hlen ht hm hlinks hraise s.acc
      exact hno (takesError_econdFrom_of_stop hr hrun)
  refine ⟨fun hroom => ?_, hdecoded⟩
  have hword : wordAt (spanWords s) 0 = spanWord s 0 := wordAt_spanWords (by omega)
  obtain ⟨e, c, hrun, -⟩ := econdFrom_completes s.params (configuredLinks s) (spanWords s) s.acc
    (.inr ⟨hword ▸ ht, (length_spanWords s).symm ▸ hroom⟩)
  have hexec := exec_econdFrom_of_done hr hrun
  exact ⟨_, hexec, hdecoded _ hexec hr.1⟩

/-- Settles O39: the links that `ERX_UNPACK` unpacks are those of the packet, so the loop reaches the word behind
them. -/
theorem econdMissingWordRaises : Obligations.EcondMissingWordRaises := by
  intro s hr
  refine ⟨fun hshort => takesError_econdFrom_of_stop hr (econdFrom_of_short hshort s.acc),
    fun m off u hlen ht hm h0 h => ?_⟩
  have hlinks := LinksAre.of_exec hr hlen h0 h
  refine ⟨fun hall hend => ?trailer, fun v e hlt hexec hfault => ?link⟩
  case trailer =>
    subst hall
    have hrun := (econdFrom_of_links hlen ht hlinks s.acc).trans (if_pos (Nat.le_of_eq hend.symm))
    exact takesError_econdFrom_of_stop hr hrun
  case link =>
    obtain ⟨r, hraise, rfl, hinfo⟩ := UnpackRaises.of_exec (ready_atLink hr (hlinks.off_le hlen) _) hexec hfault
    obtain ⟨c, hrun⟩ := econdFrom_of_link_raise hlen ht hlt hlinks hraise s.acc
    rw [hinfo]
    exact (takesError_econdFrom_of_stop hr hrun).of_faultInfo

end Sys2Proof.Machine

/-! PROOFS of the family 45_econd_packet, third part: the groups of an envelope one behind the other, each the packet
`ECOND_FROM` decodes on its part of the span (R230 to R234). -/

namespace Sys2Proof.Machine

/-! ### A packet's decode, whatever was logged before -/

/-- The packet in the span decodes to `e`, whatever was logged before: it logs the known invalid code where `bad` and
the warning where `warn`, and draws its two free flags (R212, R214). -/
def PacketIs (s : State) (draws : Nat) (e : Econd) (bad warn : Bool) : Prop :=
  ∀ l, econdFrom s.params (configuredLinks s) (spanWords s) ⟨l, draws⟩
    = .done e ⟨(l.setInvalidCode bad).setHdrWarn warn, draws + 2⟩

/-- The packet in the span raises `r`, whatever was logged before (R225). -/
def PacketRaises (s : State) (draws : Nat) (r : Raise) : Prop :=
  ∀ l, ∃ c, econdFrom s.params (configuredLinks s) (spanWords s) ⟨l, draws⟩ = .stop r c

/-- With all links decoded and a word behind them the packet is its record (R212). -/
theorem packetIs_of_links {s : State} (hlen : 2 ≤ s.spanLen) (ht : (spanWord s 0).getLsbD 6 = false) {off : Nat → Nat}
    {d : Nat → Link} (h : LinksAre s ((spanWord s 0).getLsbD 13) (configuredLinks s) off d)
    (hroom : off (configuredLinks s) < s.spanLen) (draws : Nat) :
    PacketIs s draws (packetRecord s draws off d) (anyInvalidCode (configuredLinks s) d)
      (econdWarn (packetRecord s draws off d)) :=
  fun l => (econdFrom_of_links hlen ht h ⟨l, draws⟩).trans (if_neg (Nat.not_le.2 hroom))

/-- Every packet either decodes to one record or raises one error, whatever was logged before it (R212). -/
theorem packet_decodes_or_raises (s : State) (draws : Nat) :
    (∃ e bad warn, PacketIs s draws e bad warn) ∨ ∃ r, PacketRaises s draws r := by
  by_cases hlen : s.spanLen < 2
  · exact .inr ⟨_, fun l => ⟨_, econdFrom_of_short hlen ⟨l, draws⟩⟩⟩
  have hlen : 2 ≤ s.spanLen := Nat.le_of_not_lt hlen
  cases ht : (spanWord s 0).getLsbD 6 with
  | true =>
    refine .inl ⟨packetHeader s draws, false, (packetHeader s draws).corruption[2], fun l => ?_⟩
    rw [Log.setInvalidCode_false]
    exact econdFrom_of_truncated hlen ht ⟨l, draws⟩
  | false =>
    obtain hlinks | ⟨m, hm, hlinks, r, hraise⟩ :=
      links_decode_or_raise s ((spanWord s 0).getLsbD 13) (configuredLinks s)
    · by_cases hshort : s.spanLen ≤ linkOff s ((spanWord s 0).getLsbD 13) (configuredLinks s)
      · exact .inr ⟨_, fun l => ⟨_, (econdFrom_of_links hlen ht hlinks ⟨l, draws⟩).trans (if_pos hshort)⟩⟩
      · exact .inl ⟨_, _, _, packetIs_of_links hlen ht hlinks (Nat.lt_of_not_le hshort) draws⟩
    · exact .inr ⟨r, fun l => econdFrom_of_link_raise hlen ht hm hlinks hraise ⟨l, draws⟩⟩

section
variable {s u : State} (hr : Ready s) (h : exec .econdFrom s = .next u)
include hr h

/-- `ECOND_FROM` that raises nothing has decoded its packet (R212). -/
theorem PacketIs.of_exec (hu : u.fault = none) :
    ∃ bad warn, PacketIs s s.draws u.econd bad warn ∧ u.log = (s.log.setInvalidCode bad).setHdrWarn warn
      ∧ u.draws = s.draws + 2 := by
  obtain ⟨e, bad, warn, he⟩ | ⟨r, hraise⟩ := packet_decodes_or_raises s s.draws
  · cases (exec_econdFrom_of_done hr (he s.log)).symm.trans h
    exact ⟨bad, warn, he, rfl, rfl⟩
  · obtain ⟨c, hrun⟩ := hraise s.log
    cases ((takesError_econdFrom_of_stop hr hrun).fault_of_exec h).symm.trans hu

/-- `ECOND_FROM` that raises has met the error of its decode (R225, R303). -/
theorem PacketRaises.of_exec {k : FaultKind} (hu : u.fault = some k) :
    ∃ r, PacketRaises s s.draws r ∧ k = r.kind ∧ u.faultInfo = BitVec.ofNat 32 r.info := by
  obtain ⟨e, bad, warn, he⟩ | ⟨r, hraise⟩ := packet_decodes_or_raises s s.draws
  · cases (exec_econdFrom_of_done hr (he s.log)).symm.trans h
    cases hr.1.symm.trans hu
  · obtain ⟨c, hrun⟩ := hraise s.log
    obtain ⟨t, hexec, ⟨hkind, hinfo, -⟩, -⟩ := takesError_econdFrom_of_stop hr hrun
    cases hexec.symm.trans h
    exact ⟨r, hraise, Option.some.inj (hu.symm.trans hkind), hinfo⟩

end

/-! ### One group of an envelope -/

/-- The state in which `ECOND_FROM` decodes the packet of the group at word `off` of the span: the words the group's
header announces behind it, after `draws` free values (R231). -/
def atGroup (s : State) (off draws : Nat) : State :=
  { withSpan (s.spanBase + off + 1) (msLength s off) s with draws := draws }

section
variable {s : State} {off : Nat} (hfit : off + 1 + msLength s off ≤ s.spanLen)
include hfit

theorem ready_atGroup (hr : Ready s) (draws : Nat) : Ready (atGroup s off draws) := by
  obtain ⟨hidle, hspan⟩ := hr
  refine ⟨hidle, ?_⟩
  simp only [atGroup, withSpan]
  omega

theorem spanWords_atGroup (draws : Nat) :
    spanWords (atGroup s off draws) = ((spanWords s).drop (off + 1)).take (msLength s off) :=
  spanWords_withSpan (s := s) (off := off + 1) (len := msLength s off) hfit

end

/-- The sample of the group at word `off` of the span, with its packet (R230, R231). -/
def sampleAt (s : State) (off : Nat) (e : Econd) : MsSample where
  flag := s.params.msLayout.flag.get (spanWord s off) 4
  iSample := s.params.msLayout.index.get (spanWord s off) 11
  soi := msSoi s off
  length := s.params.msLayout.length.get (spanWord s off) 16
  packet := e

/-- The envelope's record with one more sample (R231, R233). -/
def addSample (m : Ms) (x : MsSample) : Ms where
  samples := m.samples ++ [x]
  iSoi := if x.soi = true ∧ m.iSoi = -1 then (m.samples.length : Int) else m.iSoi

/-- A group of the envelope whose packet lies in the span and raises (R234). -/
theorem msGroup_of_raise {pr : Params} {n : Nat} {ws : List Word} {off : Nat} {length : BitVec 16} {c c' : Acc}
    {r : Raise} (hfit : off + 1 + length.toNat ≤ ws.length)
    (he : econdFrom pr n ((ws.drop (off + 1)).take length.toNat) c = .stop r c') (flag : BitVec 4)
    (iSample : BitVec 11) (soi : Bool) (m : Ms) : msGroup pr n ws off flag iSample soi length m c = .stop r c' := by
  rw [msGroup, if_neg (Nat.not_lt.2 hfit), he]

/-- The group at word `off` of the span, as the loop of `MS_FROM` reads it (R231). -/
def groupRun (s : State) (off : Nat) (m : Ms) (c : Acc) : Run Ms :=
  msGroup s.params (configuredLinks s) (spanWords s) off (s.params.msLayout.flag.get (spanWord s off) 4)
    (s.params.msLayout.index.get (spanWord s off) 11) (msSoi s off) (s.params.msLayout.length.get (spanWord s off) 16)
    m c

/-- What follows the group at word `off` (R231). -/
def afterGroup (s : State) (room off : Nat) : Run Ms → Run Ms
  | .stop r c => .stop r c
  | .done m c => msLoop s.params (configuredLinks s) (spanWords s) room (off + 1 + msLength s off) m c

/-- One round of the loop (R231). -/
theorem msLoop_succ {s : State} {off : Nat} (hoff : off < s.spanLen) (room : Nat) (m : Ms) (c : Acc) :
    msLoop s.params (configuredLinks s) (spanWords s) (room + 1) off m c
      = afterGroup s room off (groupRun s off m c) := by
  rw [msLoop, length_spanWords, if_pos hoff, wordAt_spanWords hoff, groupRun, msSoi]
  dsimp only
  generalize msGroup s.params (configuredLinks s) _ _ _ _ _ _ _ _ = run
  cases run <;> rfl

/-- A group that passes the span (R232, R234). -/
theorem groupRun_of_cut {s : State} {off : Nat} (h : s.spanLen < off + 1 + msLength s off) (m : Ms) (c : Acc) :
    groupRun s off m c = .stop ⟨.lengthError, off⟩ c :=
  if_pos (show (spanWords s).length < _ from (length_spanWords s).symm ▸ h)

section
variable {s : State} {off : Nat} (hfit : off + 1 + msLength s off ≤ s.spanLen)
include hfit

/-- A group whose packet decodes is the next sample (R231, R233). -/
theorem groupRun_of_packet {draws : Nat} {e : Econd} {bad warn : Bool}
    (h : PacketIs (atGroup s off draws) draws e bad warn) (m : Ms) (l : Log) :
    groupRun s off m ⟨l, draws⟩
      = .done (addSample m (sampleAt s off e)) ⟨(l.setInvalidCode bad).setHdrWarn warn, draws + 2⟩ := by
  have he := h l
  rw [spanWords_atGroup hfit] at he
  exact msGroup_of_econdFrom ((length_spanWords s).symm ▸ hfit) he _ _ _ m

/-- A group whose packet raises raises the same (R234). -/
theorem groupRun_of_raise {draws : Nat} {r : Raise} (h : PacketRaises (atGroup s off draws) draws r) (m : Ms)
    (l : Log) : ∃ c, groupRun s off m ⟨l, draws⟩ = .stop r c := by
  obtain ⟨c, he⟩ := h l
  rw [spanWords_atGroup hfit] at he
  exact ⟨c, msGroup_of_raise ((length_spanWords s).symm ▸ hfit) he _ _ _ m⟩

end

/-! ### The groups of an envelope -/

/-- The free values drawn before group `i`, where `u` are the states the packets' `ECOND_FROM` leave (R214, R231). -/
def drawsBefore (s : State) (u : Nat → State) (i : Nat) : Nat := if i = 0 then s.draws else (u (i - 1)).draws

/-- The first `k` groups of the envelope in the span: group `i` starts at word `off i`, its packet is the one
`ECOND_FROM` decodes into `u i`, and the next one starts behind it (R231). -/
structure GroupsAre (s : State) (k : Nat) (off : Nat → Nat) (u : Nat → State) : Prop where
  start : off 0 = 0
  next : ∀ i < k, off (i + 1) = off i + 1 + msLength s (off i)
  decodes : ∀ i < k, ∃ bad warn,
    PacketIs (atGroup s (off i) (drawsBefore s u i)) (drawsBefore s u i) (u i).econd bad warn
      ∧ (u i).log = (s.log.setInvalidCode bad).setHdrWarn warn ∧ (u i).draws = drawsBefore s u i + 2

/-- `LOG` has collected what the packets of the first `k` groups log (R25). -/
def LogCollects (s : State) (k : Nat) (u : Nat → State) (l : Log) : Prop :=
  (l.hdrWarn = true ↔ s.log.hdrWarn = true ∨ ∃ i, i < k ∧ (u i).log.hdrWarn = true)
    ∧ (l.invalidCode = true ↔ s.log.invalidCode = true ∨ ∃ i, i < k ∧ (u i).log.invalidCode = true)
    ∧ l.codeErr = s.log.codeErr ∧ l.syncWarn = s.log.syncWarn ∧ l.badCmd = s.log.badCmd

/-- The envelope's record after its first `k` groups (R231, R233). -/
def msRecord (s : State) (k : Nat) (off : Nat → Nat) (u : Nat → State) : Ms where
  samples := (List.range k).map fun i => sampleAt s (off i) (u i).econd
  iSoi := (((List.range k).find? fun i => msSoi s (off i)).map fun i => (i : Int)).getD (-1)

section
variable {s : State} {k : Nat} {off : Nat → Nat} {u : Nat → State}

theorem LogCollects.zero : LogCollects s 0 u s.log := by
  simp [LogCollects]

/-- A sticky bit after one more group: set before, or by the group, which runs from the bit's first value `y` (R25). -/
theorem sticky_succ {x y b : Bool} {P : Nat → Bool} (hx : x = true ↔ y = true ∨ ∃ i, i < k ∧ P i = true)
    (hP : P k = (y || b)) : (x || b) = true ↔ y = true ∨ ∃ i, i < k + 1 ∧ P i = true := by
  rw [Nat.exists_lt_succ_right, hP, Bool.or_eq_true, Bool.or_eq_true, hx]
  generalize (∃ i, i < k ∧ P i = true) = before
  tauto

/-- A packet that logs its bits whatever was logged before adds those it sets in a run of its own (R25). -/
theorem LogCollects.succ {l : Log} (h : LogCollects s k u l) {bad warn : Bool}
    (hu : (u k).log = (s.log.setInvalidCode bad).setHdrWarn warn) :
    LogCollects s (k + 1) u ((l.setInvalidCode bad).setHdrWarn warn) := by
  obtain ⟨hhdr, hinv, hkept⟩ := h
  exact ⟨sticky_succ (P := fun i => (u i).log.hdrWarn) hhdr (by rw [hu]; rfl),
    sticky_succ (P := fun i => (u i).log.invalidCode) hinv (by rw [hu]; rfl), hkept⟩

/-- The first sample with its SOI flag stays the first (R233). -/
theorem msRecord_succ : msRecord s (k + 1) off u = addSample (msRecord s k off u) (sampleAt s (off k) (u k).econd) := by
  have hlength : (msRecord s k off u).samples.length = k := (List.length_map _).trans List.length_range
  rw [addSample, hlength, msRecord, List.range_succ, List.map_append, List.find?_append]
  congr 1
  rw [msRecord]
  cases hfind : (List.range k).find? fun i => msSoi s (off i) with
  | some i =>
    have hfound : (i : Int) ≠ -1 := by omega
    simp [hfound]
  | none =>
    cases hsoi : msSoi s (off k) <;> simp [sampleAt, hsoi]

theorem GroupsAre.upTo {j : Nat} (hj : j ≤ k) (h : GroupsAre s k off u) : GroupsAre s j off u :=
  ⟨h.start, fun i hi => h.next i (hi.trans_le hj), fun i hi => h.decodes i (hi.trans_le hj)⟩

/-- The loop of `MS_FROM` in the middle: the groups passed are the samples so far, and `LOG` has their bits (R231). -/
theorem msFrom_reaches_group (h : GroupsAre s k off u) (hk : k ≤ s.params.maxSamples) (hend : off k ≤ s.spanLen) :
    ∃ l, msFrom s.params (configuredLinks s) (spanWords s) s.acc
        = msLoop s.params (configuredLinks s) (spanWords s) (s.params.maxSamples - k) (off k) (msRecord s k off u)
            ⟨l, drawsBefore s u k⟩
      ∧ LogCollects s k u l := by
  induction k with
  | zero => exact ⟨s.log, by rw [h.start]; rfl, LogCollects.zero⟩
  | succ k ih =>
    have hnext := h.next k (Nat.lt_succ_self k)
    obtain ⟨bad, warn, hpacket, hlog, hdraws⟩ := h.decodes k (Nat.lt_succ_self k)
    obtain ⟨l, hrun, hl⟩ := ih (h.upTo k.le_succ) (Nat.le_of_succ_le hk) (by omega)
    refine ⟨_, ?_, hl.succ hlog⟩
    rw [hrun, show s.params.maxSamples - k = s.params.maxSamples - (k + 1) + 1 by omega, msLoop_succ (by omega),
      groupRun_of_packet (by omega) hpacket, afterGroup, ← hnext, ← msRecord_succ, ← hdraws]
    rfl

end

/-! ### `MS_FROM` -/

section
variable {s : State} (hr : Ready s)
include hr

theorem exec_msFrom_of_done {m : Ms} {l : Log} {n : Nat}
    (hrun : msFrom s.params (configuredLinks s) (spanWords s) s.acc = .done m ⟨l, n⟩) :
    exec .msFrom s = .next { s with ms := m, log := l, draws := n } := by
  rw [exec, execMsFrom, onSpan_of_ready hr, hrun]
  rfl

theorem takesError_msFrom_of_stop {e : Raise} {c : Acc}
    (hrun : msFrom s.params (configuredLinks s) (spanWords s) s.acc = .stop e c) :
    TakesError .msFrom s e.kind e.info := by
  refine takesError_of_stop (c := c) ?_
  rw [exec, execMsFrom, onSpan_of_ready hr, hrun]
  rfl

/-- Groups whose packets `ECOND_FROM` decodes are the groups of the envelope (R231). -/
theorem GroupsAre.of_exec {k : Nat} {off : Nat → Nat} {u : Nat → State} (h0 : off 0 = 0) (hend : off k ≤ s.spanLen)
    (h : ∀ i, i < k →
      off (i + 1) = off i + 1 + msLength s (off i) ∧ off i < s.spanLen
        ∧ exec .econdFrom (atGroup s (off i) (drawsBefore s u i)) = .next (u i) ∧ (u i).fault = none) :
    GroupsAre s k off u where
  start := h0
  next i hi := (h i hi).1
  decodes i hi := by
    obtain ⟨hnext, -, hexec, hfault⟩ := h i hi
    have hfit : off (i + 1) ≤ s.spanLen := by
      obtain hlt | rfl := Nat.lt_or_eq_of_le (Nat.succ_le_of_lt hi)
      · obtain ⟨-, hbelow, -⟩ := h (i + 1) hlt
        exact hbelow.le
      · exact hend
    exact PacketIs.of_exec (ready_atGroup (hnext ▸ hfit) hr _) hexec hfault

end

/-- Settles O41: the loop reaches the group behind the last one that decodes, where it ends, is full, is cut short, or
meets the error of the next packet. -/
theorem msFromReadsGroups : Obligations.MsFromReadsGroups := by
  intro s k off u hr hk h0 hend h
  have hgroups := GroupsAre.of_exec hr h0 hend h
  obtain ⟨l, hrun, hlog⟩ := msFrom_reaches_group hgroups hk hend
  refine ⟨rfl, fun hall => ?complete, fun hmore hfull => ?full, fun hmore hroom hcut => ?cut,
    fun v e hmore hroom hfit hexec hfault => ?nested⟩
  case complete =>
    rw [msLoop_at_end _ _ (by rw [length_spanWords, hall])] at hrun
    exact ⟨_, exec_msFrom_of_done hr hrun, rfl, rfl, rfl, hlog⟩
  case full =>
    rw [← hfull, Nat.sub_self, msLoop, length_spanWords, if_pos hmore] at hrun
    exact takesError_msFrom_of_stop hr hrun
  all_goals
    rw [show s.params.maxSamples - k = s.params.maxSamples - (k + 1) + 1 by omega, msLoop_succ hmore] at hrun
  case cut =>
    rw [groupRun_of_cut hcut] at hrun
    exact takesError_msFrom_of_stop hr hrun
  case nested =>
    obtain ⟨r, hraise, rfl, hinfo⟩ := PacketRaises.of_exec (ready_atGroup hfit hr (drawsBefore s u k)) hexec hfault
    obtain ⟨c, hstop⟩ := groupRun_of_raise hfit hraise (msRecord s k off u) l
    rw [hstop] at hrun
    rw [hinfo]
    exact (takesError_msFrom_of_stop hr hrun).of_faultInfo

end Sys2Proof.Machine

/-! PROOFS of the family 46_singleroc: the length table of a single-ROC packet (R242), the loop over its six slices link
by link (R243 to R246), and the errors on its way (R248). -/

namespace Sys2Proof.Machine

/-! ### The length table -/

/-- The half of its table word that holds `link_len[i]` (R242). -/
def tableHalf (o : LenTableOrder) (i : Nat) (hi lo : BitVec 16) : BitVec 16 :=
  if (i % 2 == 0) == (o == .upperFirst) then hi else lo

/-- Table word `k` holds the lengths of the links `2 * k` and `2 * k + 1` and of no other (R242). -/
theorem applyRocLtab_linkLen (o : LenTableOrder) {k i : Nat} (hk : k < 3) (hi : i < 6) (up lo : BitVec 16) (r : Roc) :
    (applyRocLtab o k up lo r).linkLen[i] = if i / 2 = k then tableHalf o i up lo else r.linkLen[i] := by
  rw [applyRocLtab_of_lt o hk]
  obtain heven | hodd := Nat.mod_two_eq_zero_or_one i
  · have hne : 2 * k + 1 ≠ i := by omega
    have heq : 2 * k = i ↔ i / 2 = k := by omega
    cases o <;> simp [tableHalf, Vector.getElem_set, heven, hne, heq]
  · have hne : 2 * k ≠ i := by omega
    have heq : 2 * k + 1 = i ↔ i / 2 = k := by omega
    cases o <;> simp [tableHalf, Vector.getElem_set, hodd, hne, heq]

theorem rocHead_linkLen (pr : Params) (ws : List Word) {i : Nat} (hi : i < 6) :
    (rocHead pr ws).linkLen[i]
      = tableHalf pr.lenTableOrder i ((wordAt ws (1 + i / 2)).extractLsb' 16 16)
          ((wordAt ws (1 + i / 2)).extractLsb' 0 16) := by
  have hword : i / 2 = 0 ∨ i / 2 = 1 ∨ i / 2 = 2 := by omega
  simp only [rocHead, applyRocLtab_linkLen _ (by decide : 0 < 3) hi, applyRocLtab_linkLen _ (by decide : 1 < 3) hi,
    applyRocLtab_linkLen _ (by decide : 2 < 3) hi]
  obtain h | h | h := hword <;> simp [h]

/-- The table words change nothing but the lengths (R242). -/
theorem rocHead_frame (pr : Params) (ws : List Word) :
    rocHead pr ws = { Roc.zero with totalLen := wordAt ws 0, linkLen := (rocHead pr ws).linkLen } := by
  simp only [rocHead]
  rw [applyRocLtab_of_lt _ (by decide), applyRocLtab_of_lt _ (by decide), applyRocLtab_of_lt _ (by decide)]

/-- The lengths in the table of the packet at the span's start (R242). -/
def linkLens (s : State) : Vector (BitVec 16) 6 :=
  Vector.ofFn fun i =>
    tableHalf s.params.lenTableOrder i ((spanWord s (1 + i / 2)).extractLsb' 16 16)
      ((spanWord s (1 + i / 2)).extractLsb' 0 16)

theorem linkLens_toNat (s : State) {i : Nat} (hi : i < 6) : (linkLens s)[i].toNat = tableLen s i := by
  rw [linkLens, Vector.getElem_ofFn]
  exact apply_ite BitVec.toNat _ _ _

theorem rocHead_spanWords {s : State} (hlen : 4 ≤ s.spanLen) :
    rocHead s.params (spanWords s) = { Roc.zero with totalLen := spanWord s 0, linkLen := linkLens s } := by
  have hlens : (rocHead s.params (spanWords s)).linkLen = linkLens s := by
    ext1 i hi
    rw [rocHead_linkLen _ _ hi, wordAt_spanWords (by omega), linkLens, Vector.getElem_ofFn]
  rw [rocHead_frame, hlens, wordAt_spanWords (by omega)]

theorem tableOff_succ (s : State) (i : Nat) : tableOff s (i + 1) = tableOff s i + tableLen s i := rfl

theorem tableOff_mono (s : State) : Monotone (tableOff s) :=
  monotone_nat_of_le_succ fun i => Nat.le_add_right (tableOff s i) (tableLen s i)

/-! ### `DAQ_FROM` on a slice -/

/-- The state whose span is slice `i` (R243, R110). -/
def atSlice (s : State) (i : Nat) : State := withSpan (s.spanBase + tableOff s i) (tableLen s i) s

/-- What `DAQ_FROM` makes of slice `i` (R244). -/
def sliceLink (s : State) (i : Nat) : Link := daqRecord s.params (spanWords (atSlice s i))

/-- The warning of slice `i`'s header (R135). -/
def sliceWarn (s : State) (i : Nat) : Bool := (sliceLink s i).corruption[0] || (sliceLink s i).corruption[5]

section
variable {s : State} {i : Nat} (hfit : tableOff s (i + 1) ≤ s.spanLen)
include hfit

theorem spanWords_atSlice : spanWords (atSlice s i) = ((spanWords s).drop (tableOff s i)).take (tableLen s i) :=
  spanWords_withSpan hfit

theorem ready_atSlice (hr : Ready s) : Ready (atSlice s i) := by
  obtain ⟨hidle, hspan⟩ := hr
  rw [tableOff_succ] at hfit
  refine ⟨hidle, ?_⟩
  simp only [atSlice, withSpan]
  omega

theorem exec_daqFrom_atSlice (hr : Ready s) (hl : tableLen s i = 40) :
    ∃ u, exec .daqFrom (atSlice s i) = .next u ∧ u.daq = sliceLink s i ∧ u.log = s.log.setHdrWarn (sliceWarn s i) :=
  ⟨_, exec_daqFrom_of_whole (ready_atSlice hfit hr) hl rfl, rfl, rfl⟩

end

/-- A frame of 40 words decodes to its record and logs its header's warning (R135). -/
theorem daqFrom_of_whole (pr : Params) {ws : List Word} (h : ws.length = 40) (c : Acc) :
    daqFrom pr ws c
      = .done (daqRecord pr ws)
          { c with
            log := c.log.setHdrWarn ((daqRecord pr ws).corruption[0] || (daqRecord pr ws).corruption[5]) } := by
  rw [daqFrom, if_neg (not_not.2 h), daqRecord_eq]
  simp only [← daqWarn_headerFlags]

/-! ### What the links leave -/

/-- The record with link `i` added: a DAQ link, or a trigger link's offset and stub (R244, R245). -/
def addLink (s : State) (i : Nat) (r : Roc) : Roc :=
  if i < 2 then { r with daq := r.daq.setIfInBounds i (sliceLink s i) }
  else
    { r with
      trigOff := r.trigOff.setIfInBounds (i - 2) (tableOff s i), trig := r.trig.setIfInBounds (i - 2) Trigf.zero }

/-- The record after the first `i` links (R243). -/
def rocRecord (s : State) : Nat → Roc
  | 0 => { Roc.zero with totalLen := spanWord s 0, linkLen := linkLens s }
  | i + 1 => addLink s i (rocRecord s i)

/-- `LOG` after the first `i` links: only a DAQ link logs (R240). -/
def rocLog (s : State) : Nat → Log
  | 0 => s.log
  | i + 1 => if i < 2 then (rocLog s i).setHdrWarn (sliceWarn s i) else rocLog s i

theorem addLink_linkLen (s : State) (i : Nat) (r : Roc) : (addLink s i r).linkLen = r.linkLen := by
  unfold addLink
  split <;> rfl

/-- The lengths stay those of the table while links are added (R242). -/
theorem rocRecord_linkLen (s : State) (i : Nat) : (rocRecord s i).linkLen = linkLens s := by
  induction i with
  | zero => rfl
  | succ i ih => rw [rocRecord, addLink_linkLen, ih]

theorem linkLenOf_rocRecord (s : State) (i : Nat) {k : Nat} (hk : k < 6) :
    linkLenOf (rocRecord s i) k = tableLen s k := by
  rw [linkLenOf, rocRecord_linkLen, Vector.getElem?_eq_getElem hk, Option.getD_some, linkLens_toNat s hk]

/-- The record of a packet whose slices all fit, with its two DAQ links (R240 to R246). -/
def rocResult (s : State) (d0 d1 : Link) : Roc where
  totalLen := spanWord s 0
  linkLen := linkLens s
  daq := #v[d0, d1]
  trig := Vector.replicate 4 Trigf.zero
  trigOff := Vector.ofFn fun j => tableOff s (2 + j)
  endOff := tableOff s 6

theorem rocRecord_all (s : State) :
    { rocRecord s 6 with endOff := tableOff s 6 } = rocResult s (sliceLink s 0) (sliceLink s 1) := by
  simp only [rocRecord, addLink, Nat.reduceLT, if_true, if_false]
  rfl

/-- Both DAQ links log into the same sticky bit, as each would alone (R25, R240). -/
theorem rocLog_all (s : State) :
    rocLog s 6
      = { s.log with
          hdrWarn :=
            (s.log.setHdrWarn (sliceWarn s 0)).hdrWarn || (s.log.setHdrWarn (sliceWarn s 1)).hdrWarn } := by
  simp only [rocLog, Nat.reduceLT, if_true, if_false, Log.setHdrWarn]
  cases s.log.hdrWarn <;> simp

/-! ### The loop, link by link -/

/-- The loop of `ROC_FROM` where it reaches link `i`, with what the links before it leave (R243). -/
def slicesFrom (s : State) (i : Nat) : Run Roc :=
  rocSlices s.params (spanWords s) (6 - i) i (tableOff s i) (rocRecord s i) ⟨rocLog s i, s.draws⟩

theorem slicesFrom_end (s : State) :
    slicesFrom s 6 = .done (rocResult s (sliceLink s 0) (sliceLink s 1)) ⟨rocLog s 6, s.draws⟩ :=
  congrArg (Run.done · ⟨rocLog s 6, s.draws⟩) (rocRecord_all s)

section
variable {s : State} {i : Nat} (hi : i < 6)
include hi

/-- A slice that passes the span (R243, R248). -/
theorem slicesFrom_of_cut (hcut : s.spanLen < tableOff s (i + 1)) :
    slicesFrom s i = .stop ⟨.lengthError, i⟩ ⟨rocLog s i, s.draws⟩ := by
  rw [slicesFrom, show 6 - i = 6 - (i + 1) + 1 by omega, rocSlices, linkLenOf_rocRecord s i hi, length_spanWords]
  exact if_pos hcut

variable (hfit : tableOff s (i + 1) ≤ s.spanLen)
include hfit

/-- A slice of another length than a DAQ frame's at a DAQ link (R244, R248). -/
theorem slicesFrom_of_bad_daq (hdaq : i < 2) (hl : tableLen s i ≠ 40) :
    slicesFrom s i = .stop ⟨.badLength, tableLen s i⟩ ⟨rocLog s i, s.draws⟩ := by
  have hlength : (spanWords (atSlice s i)).length = tableLen s i := length_spanWords _
  rw [slicesFrom, show 6 - i = 6 - (i + 1) + 1 by omega, rocSlices, linkLenOf_rocRecord s i hi, length_spanWords,
    ← spanWords_atSlice hfit, ← tableOff_succ, if_neg (Nat.not_lt.2 hfit), if_pos hdaq, daqFrom, hlength, if_pos hl]

/-- A slice within the span, of a frame's length at a DAQ link, adds its link and the loop goes on behind it
(R244, R245). -/
theorem slicesFrom_succ (hl : i < 2 → tableLen s i = 40) : slicesFrom s i = slicesFrom s (i + 1) := by
  rw [slicesFrom, show 6 - i = 6 - (i + 1) + 1 by omega, rocSlices, linkLenOf_rocRecord s i hi, length_spanWords,
    ← spanWords_atSlice hfit, ← tableOff_succ, if_neg (Nat.not_lt.2 hfit), slicesFrom, rocRecord, rocLog, addLink]
  by_cases hdaq : i < 2
  · rw [daqFrom_of_whole _ ((length_spanWords _).trans (hl hdaq))]
    simp only [if_pos hdaq]
    rfl
  · simp only [if_neg hdaq]

end

/-- `ROC_FROM` reaches the link behind those whose slices fit (R241, R243). -/
theorem rocFrom_reaches_link {s : State} (hlen : 4 ≤ s.spanLen) (htotal : (spanWord s 0).toNat = s.spanLen) {i : Nat}
    (hi : i ≤ 6) (hfit : tableOff s i ≤ s.spanLen) (hl : ∀ j, j < i → j < 2 → tableLen s j = 40) :
    rocFrom s.params (spanWords s) s.acc = slicesFrom s i := by
  induction i with
  | zero =>
    rw [rocFrom, length_spanWords, wordAt_spanWords (by omega), if_neg (by omega), if_neg (not_not.2 htotal.symm),
      if_neg (Nat.not_lt.2 hlen), rocHead_spanWords hlen]
    rfl
  | succ i ih =>
    have hbefore : tableOff s i ≤ s.spanLen := (tableOff_mono s i.le_succ).trans hfit
    rw [ih (Nat.le_of_succ_le hi) hbefore fun j hj => hl j (hj.trans i.lt_succ_self)]
    exact slicesFrom_succ hi hfit (hl i i.lt_succ_self)

/-! ### `ROC_FROM` -/

section
variable {s : State} (hr : Ready s)
include hr

theorem exec_rocFrom_of_done {r : Roc} {l : Log}
    (hrun : rocFrom s.params (spanWords s) s.acc = .done r ⟨l, s.draws⟩) :
    exec .rocFrom s = .next { s with roc := r, log := l } := by
  rw [exec, execRocFrom, onSpan_of_ready hr, hrun]
  rfl

theorem takesError_rocFrom_of_stop {e : Raise} {c : Acc}
    (hrun : rocFrom s.params (spanWords s) s.acc = .stop e c) : TakesError .rocFrom s e.kind e.info := by
  refine takesError_of_stop (c := c) ?_
  rw [exec, execRocFrom, onSpan_of_ready hr, hrun]
  rfl

end

/-- Settles O44: all six slices fit, so the loop ends with six links added, the two DAQ links as `DAQ_FROM` makes them
of the same words. -/
theorem rocFromAssembles : Obligations.RocFromAssembles := by
  intro s hr hlen htotal h0 h1 hend
  have hl (j : Nat) (hj : j < 2) : tableLen s j = 40 := by
    obtain rfl | rfl : j = 0 ∨ j = 1 := by omega
    · exact h0
    · exact h1
  have hdaq (j : Nat) (hj : j < 2) :=
    exec_daqFrom_atSlice ((tableOff_mono s (show j + 1 ≤ 6 by omega)).trans hend) hr (hl j hj)
  obtain ⟨u0, hexec0, hlink0, hlog0⟩ := hdaq 0 (by decide)
  obtain ⟨u1, hexec1, hlink1, hlog1⟩ := hdaq 1 (by decide)
  rw [atSlice, tableOff, h0] at hexec0
  rw [atSlice, tableOff, tableOff, h0, h1] at hexec1
  have hrun := rocFrom_reaches_link hlen htotal (Nat.le_refl 6) hend fun j _ => hl j
  rw [slicesFrom_end, rocLog_all, ← hlink0, ← hlink1, ← hlog0, ← hlog1] at hrun
  exact ⟨rfl, _, u0, u1, exec_rocFrom_of_done hr hrun, hexec0, hexec1, rfl, rfl,
    fun i hi => linkLens_toNat s hi, rfl, rfl, fun j hj => Vector.getElem_ofFn hj, rfl⟩

/-- Settles O45: the three tests before the loop, then the loop where it reaches link `i`. -/
theorem rocFaultsInOrder : Obligations.RocFaultsInOrder := by
  intro s hr
  refine ⟨fun hempty => ?empty, fun hsome htotal => ?total, fun hsome htotal hshort => ?short,
    fun i htotal hlen hi hfit hl => ?loop⟩
  case empty =>
    refine takesError_rocFrom_of_stop (e := ⟨.lengthError, 0⟩) (c := s.acc) hr ?_
    rw [rocFrom, length_spanWords, if_pos hempty]
  case total =>
    refine takesError_rocFrom_of_stop (e := ⟨.badLength, s.spanLen⟩) (c := s.acc) hr ?_
    rw [rocFrom, length_spanWords, if_neg (by omega), wordAt_spanWords hsome, if_pos htotal.symm]
  case short =>
    refine takesError_rocFrom_of_stop (e := ⟨.lengthError, s.spanLen⟩) (c := s.acc) hr ?_
    rw [rocFrom, length_spanWords, if_neg (by omega), wordAt_spanWords hsome, if_neg (not_not.2 htotal.symm),
      if_pos hshort]
  case loop =>
    have hrun := rocFrom_reaches_link hlen htotal hi.le hfit hl
    exact ⟨fun hcut => takesError_rocFrom_of_stop hr (hrun.trans (slicesFrom_of_cut hi hcut)),
      fun hwithin hdaq hbad =>
        takesError_rocFrom_of_stop hr (hrun.trans (slicesFrom_of_bad_daq hi hwithin hdaq hbad))⟩

end Sys2Proof.Machine

/-! PROOFS of the family 47_formatter, first part: the write primitive (R256), whole words written at a word boundary, and
the header and the trailer that are such words (R257, R264, R265). -/

namespace Sys2Proof.Machine

/-! ### The write primitive -/

/-- Settles O46: the one rule of what a bit reads as after the write, for the bits written, those before them, the rest
of the last word, and the bytes after it. -/
theorem writeBitsReadBack : Obligations.WriteBitsReadBack := by
  intro n v f h hzero
  refine ⟨writeBits_op n v f, writeBits_wf n v h, fun k hk => ?written, fun q hq => ?before, fun q hq hlast => ?rest,
    fun a ha => readByte_eq_of_bufBit fun k hk => ?after⟩
  case written =>
    rw [bufBit_writeBits _ _ h, if_pos (by omega), show f.op + n - 1 - (f.op + k) = n - 1 - k by omega]
  case before => rw [bufBit_writeBits _ _ h, if_neg (by omega), if_neg (by omega)]
  case rest =>
    rw [bufBit_writeBits _ _ h, if_neg (by omega)]
    split
    · rfl
    · exact hzero q (by omega) (by omega)
  case after => rw [bufBit_writeBits _ _ h, if_neg (by omega), if_neg (by omega)]

/-! ### Whole words at a word boundary -/

/-- The 32 bits of a word written at a word boundary are the word written (R256). -/
theorem writeBits_word {m : Memory} (h : Memory.wf m = true) (i : Nat) (w : Word) :
    writeBits 32 w.toNat ⟨m, 32 * i⟩ = ⟨Memory.writeWord m i w, 32 * (i + 1)⟩ := by
  have hmem : (writeBits 32 w.toNat ⟨m, 32 * i⟩).mem = Memory.writeWord m i w := by
    refine Memory.eq_of_reads (writeBits_wf _ _ h) (Memory.wf_writeWord h i w) fun a =>
      readByte_eq_of_bufBit fun k _ => ?_
    rw [bufBit_writeBits _ _ h, bufBit_writeWord h, BitVec.testBit_toNat]
    dsimp only
    by_cases hword : (8 * a + k) / 32 = i
    · rw [if_pos (by omega), if_pos hword, show 32 * i + 32 - 1 - (8 * a + k) = 31 - (8 * a + k) % 32 by omega]
    · rw [if_neg (by omega), if_neg (by omega), if_neg hword]
  calc writeBits 32 w.toNat ⟨m, 32 * i⟩
    _ = ⟨(writeBits 32 w.toNat ⟨m, 32 * i⟩).mem, (writeBits 32 w.toNat ⟨m, 32 * i⟩).op⟩ := rfl
    _ = ⟨Memory.writeWord m i w, 32 * (i + 1)⟩ := by rw [hmem, writeBits_op]; rfl

theorem writeField_word {pr : Params} {m : Memory} (h : Memory.wf m = true) {i : Nat} (hroom : i + 1 ≤ pr.obufWords)
    (w : Word) : writeField pr ⟨32, w.toNat⟩ ⟨m, 32 * i⟩ = .ok ⟨Memory.writeWord m i w, 32 * (i + 1)⟩ := by
  rw [writeField, if_neg (Nat.not_lt.2 (show 32 * i + 32 ≤ 32 * pr.obufWords by omega)), writeBits_word h]

/-- A field that does not fit raises at the write cursor (R256). -/
theorem writeField_of_full {pr : Params} {x : Field} {f : BitBuf} (h : 32 * pr.obufWords < f.op + x.n) :
    writeField pr x f = .error ⟨.lengthError, f.op⟩ :=
  if_pos h

/-! ### `FMT_START` -/

/-- The marker over zeros (R257). -/
def startWord0 (pr : Params) : Word := pr.econdMarker ++ 0#23

/-- The event numbers over zeros (R257). -/
def startWord1 (s : State) : Word :=
  s.arg0.extractLsb' 0 12 ++ s.arg1.extractLsb' 0 6 ++ s.arg2.extractLsb' 0 3 ++ 0#11

theorem startFields_eq (s : State) :
    startFields s.params s.arg0 s.arg1 s.arg2 = [⟨32, (startWord0 s.params).toNat⟩, ⟨32, (startWord1 s).toNat⟩] := by
  have h0 : (startWord0 s.params).toNat = s.params.econdMarker.toNat <<< 23 := by
    rw [startWord0, BitVec.toNat_append]
    exact Nat.or_zero _
  have h1 : startWord1 s
      = econdWord1 (s.arg0.extractLsb' 0 12) (s.arg1.extractLsb' 0 6) (s.arg2.extractLsb' 0 3) false 0#2 0#8 := by
    apply BitVec.eq_of_toNat_eq
    simp only [startWord1, econdWord1, BitVec.toNat_append, BitVec.toNat_ofBool, BitVec.toNat_ofNat, Bool.toNat_false,
      Nat.zero_mod, Nat.or_zero, ← Nat.shiftLeft_add]
  rw [startFields, h0, h1]

/-- The output buffer with the two header words (R257). -/
def startBuf (s : State) : Memory :=
  Memory.writeWord (Memory.writeWord s.obuf 0 (startWord0 s.params)) 1 (startWord1 s)

theorem exec_fmtStart_of_room {s : State} (h : Idle s) (hroom : 2 ≤ s.params.obufWords)
    (hm : Memory.wf s.obuf = true) :
    exec .fmtStart s = .next { s with obuf := startBuf s, olen := 2, op := 64, fmtOpen := true, fmtNlinks := 0 } := by
  have hwrite : writeFields s.params (startFields s.params s.arg0 s.arg1 s.arg2) ⟨s.obuf, 0⟩ = .ok ⟨startBuf s, 64⟩ := by
    rw [startFields_eq, writeFields_eq_putFields (show 0 + 64 ≤ 32 * s.params.obufWords by omega)]
    refine congrArg _ ?_
    calc writeBits 32 (startWord1 s).toNat (writeBits 32 (startWord0 s.params).toNat ⟨s.obuf, 32 * 0⟩)
      _ = ⟨startBuf s, 64⟩ := by rw [writeBits_word hm, writeBits_word (Memory.wf_writeWord hm 0 _), startBuf]
  rw [exec, execFmtStart, whenIdle_of_idle h, hwrite, finishFmt, State.withFmt, show ceilWords 64 = 2 from rfl]

/-- Settles O47: the two words are written at the start of the buffer, so they read back and nothing else changes. -/
theorem fmtStartWritesHeader : Obligations.FmtStartWritesHeader := by
  intro s h hroom hm
  have hm1 := Memory.wf_writeWord hm 0 (startWord0 s.params)
  refine ⟨rfl, _, exec_fmtStart_of_room h hroom hm, Memory.wf_writeWord hm1 1 _, ?word0,
    Memory.readWord_writeWord_same hm1 1 _, fun a ha => ?outside⟩
  case word0 =>
    exact (Memory.readWord_writeWord_other _ (by decide) _).trans (Memory.readWord_writeWord_same hm 0 _)
  case outside =>
    exact (Memory.readByte_writeWord_outside _ (by omega) _).trans (Memory.readByte_writeWord_outside _ (by omega) _)

/-! ### `FMT_FINISH` -/

theorem FmtReady.op_eq {s : State} (h : FmtReady s) : s.op = 32 * s.olen ∧ 2 ≤ s.olen := by
  obtain ⟨-, -, hword, holen, hhead⟩ := h
  rw [holen, ceilWords]
  omega

/-- The trailer of a packet of `n` words so far (R264, R265). -/
def trailerWord (pr : Params) (n : Nat) (m : Memory) : Word :=
  match pr.fmtFidelity with
  | .sourcePlaceholder => 0xFFFFFFFF#32
  | .bitExact => crc32Of (Memory.words m 2 (n - 2))

/-- The buffer with the header of a packet of `n` words so far finished: as it was in the placeholder form (R264). -/
def finishedHeader (pr : Params) (n : Nat) (m : Memory) : Memory :=
  match pr.fmtFidelity with
  | .sourcePlaceholder => m
  | .bitExact => exactHeader pr n m

/-- The buffer with the packet of `n` words so far closed (R264). -/
def closedBuf (pr : Params) (n : Nat) (m : Memory) : Memory :=
  Memory.writeWord (finishedHeader pr n m) n (trailerWord pr n (finishedHeader pr n m))

theorem finishedHeader_wf (pr : Params) (n : Nat) {m : Memory} (h : Memory.wf m = true) :
    Memory.wf (finishedHeader pr n m) = true := by
  rw [finishedHeader]
  split
  · exact h
  · exact exactHeader_wf pr n h

theorem finishPacket_eq (pr : Params) (n : Nat) (f : BitBuf) :
    finishPacket pr n f
      = writeField pr ⟨32, (trailerWord pr n (finishedHeader pr n f.mem)).toNat⟩
          { f with mem := finishedHeader pr n f.mem } := by
  unfold finishPacket finishedHeader trailerWord
  cases pr.fmtFidelity <;> rfl

theorem finishPacket_of_room {pr : Params} {n : Nat} {m : Memory} (h : Memory.wf m = true)
    (hroom : n + 1 ≤ pr.obufWords) :
    finishPacket pr n ⟨m, 32 * n⟩ = .ok ⟨closedBuf pr n m, 32 * (n + 1)⟩ := by
  rw [finishPacket_eq, writeField_word (finishedHeader_wf pr n h) hroom, closedBuf]

theorem exec_fmtFinish_of_room {s : State} (h : Idle s) (hf : FmtReady s) (hroom : s.op + 32 ≤ 32 * s.params.obufWords) :
    exec .fmtFinish s
      = .next
          { s with
            obuf := closedBuf s.params s.olen s.obuf, op := s.op + 32, olen := s.olen + 1, fmtOpen := false } := by
  obtain ⟨hop, -⟩ := hf.op_eq
  obtain ⟨hopen, hm, -⟩ := hf
  have hceil : ceilWords (32 * (s.olen + 1)) = s.olen + 1 := by
    rw [ceilWords]
    omega
  have hwrite : finishPacket s.params s.olen (fmtBuf s) = .ok ⟨closedBuf s.params s.olen s.obuf, 32 * (s.olen + 1)⟩ := by
    rw [fmtBuf, hop]
    exact finishPacket_of_room hm (by omega)
  rw [exec, execFmtFinish, whenIdle_of_idle h, if_neg (by rw [hopen]; decide), hwrite, finishFmt, State.withFmt, hceil,
    hop]
  rfl

section
variable {pr : Params} {n : Nat} {m : Memory} (h : Memory.wf m = true)

theorem readByte_exactHeader {a : Nat} (ha : 8 ≤ a) :
    Memory.readByte (exactHeader pr n m) a = Memory.readByte m a :=
  (Memory.readByte_writeWord_outside _ (.inr (by omega)) _).trans
    (Memory.readByte_writeWord_outside _ (.inr (by omega)) _)

theorem readWord_exactHeader {i : Nat} (hi : 2 ≤ i) :
    Memory.readWord (exactHeader pr n m) i = Memory.readWord m i :=
  (Memory.readWord_writeWord_other _ (by omega) _).trans (Memory.readWord_writeWord_other _ (by omega) _)

/-- The first header word with the length field filled in (R265). -/
def exactWord0 (n : Nat) (m : Memory) : Word :=
  Memory.readWord m 0 ||| BitVec.ofNat 32 ((n - 1) % 512 * 2 ^ 14)

/-- The second header word with the check filled in (R265). -/
def exactWord1 (pr : Params) (n : Nat) (m : Memory) : Word :=
  Memory.readWord m 1 ||| (headerCrc8 pr (exactWord0 n m) (Memory.readWord m 1)).setWidth 32

include h

theorem readWord_exactHeader_header (hn : 2 ≤ n) :
    Memory.readWord (exactHeader pr n m) 0 = exactWord0 n m ∧ Memory.readWord (exactHeader pr n m) 1 = exactWord1 pr n m := by
  have hlength : ((n - 2 + 1) % 512) <<< 14 = (n - 1) % 512 * 2 ^ 14 := by
    rw [Nat.shiftLeft_eq, show n - 2 + 1 = n - 1 by omega]
  have hm0 := Memory.wf_writeWord h 0 (exactWord0 n m)
  have hkeep : Memory.readWord (Memory.writeWord m 0 (exactWord0 n m)) 1 = Memory.readWord m 1 :=
    Memory.readWord_writeWord_other m (by decide) _
  rw [exactHeader, hlength, ← exactWord0]
  rw [hkeep, ← exactWord1, Memory.readWord_writeWord_same hm0]
  exact ⟨(Memory.readWord_writeWord_other _ (by decide) _).trans (Memory.readWord_writeWord_same h 0 _), rfl⟩

end

/-- Settles O49: the placeholder form writes one word; the bit-exact form fills in two header words and writes the
check over the words between, which are as they were. -/
theorem fmtFinishClosesPacket : Obligations.FmtFinishClosesPacket := by
  intro s h hf hroom
  obtain ⟨-, hlen⟩ := hf.op_eq
  have hm : Memory.wf s.obuf = true := hf.2.1
  have hfinished := finishedHeader_wf s.params s.olen hm
  have htrailer : Memory.readWord (closedBuf s.params s.olen s.obuf) s.olen
      = trailerWord s.params s.olen (finishedHeader s.params s.olen s.obuf) :=
    Memory.readWord_writeWord_same hfinished _ _
  have houtside {a : Nat} (ha : a < 4 * s.olen ∨ 4 * s.olen + 4 ≤ a) :
      Memory.readByte (closedBuf s.params s.olen s.obuf) a
        = Memory.readByte (finishedHeader s.params s.olen s.obuf) a :=
    Memory.readByte_writeWord_outside _ ha _
  have hheader {i : Nat} (hi : i < 2) :
      Memory.readWord (closedBuf s.params s.olen s.obuf) i
        = Memory.readWord (finishedHeader s.params s.olen s.obuf) i :=
    Memory.readWord_writeWord_other _ (by omega) _
  refine ⟨rfl, _, exec_fmtFinish_of_room h hf hroom, Memory.wf_writeWord hfinished _ _, fun hform => ?placeholder,
    fun hform => ?exact⟩
  case placeholder =>
    rw [trailerWord, hform] at htrailer
    refine ⟨htrailer, fun a ha => (houtside ha).trans ?_⟩
    rw [finishedHeader, hform]
  case exact =>
    intro w0 w1
    have hfin : finishedHeader s.params s.olen s.obuf = exactHeader s.params s.olen s.obuf := by
      rw [finishedHeader, hform]
    obtain ⟨h0, h1⟩ := readWord_exactHeader_header (pr := s.params) hm hlen
    rw [trailerWord, hform, hfin] at htrailer
    rw [hfin] at houtside hheader
    refine ⟨(hheader (by decide)).trans h0, (hheader (by decide)).trans h1, htrailer.trans (congrArg crc32Of ?_),
      fun a ha hother => (houtside hother).trans (readByte_exactHeader ha)⟩
    exact List.map_congr_left fun k _ => readWord_exactHeader (Nat.le_add_right 2 k)

/-! ### The calls and arguments the formatter rejects -/

section
variable {s : State}

theorem takesError_fmtFinish (h : Idle s) {e : Raise}
    (hrun : s.fmtOpen = false ∧ e = ⟨.badFormat, 0⟩
      ∨ s.fmtOpen = true ∧ finishPacket s.params s.olen (fmtBuf s) = .error e) :
    TakesError .fmtFinish s e.kind e.info := by
  refine takesError_of_abort ?_
  rw [exec, execFmtFinish, whenIdle_of_idle h]
  obtain ⟨hopen, rfl⟩ | ⟨hopen, hrun⟩ := hrun
  · rw [if_pos (by rw [hopen]; rfl)]
    rfl
  · rw [if_neg (by rw [hopen]; decide), hrun]
    rfl

theorem finishPacket_of_full {pr : Params} {n : Nat} {f : BitBuf} (h : 32 * pr.obufWords < f.op + 32) :
    finishPacket pr n f = .error ⟨.lengthError, f.op⟩ := by
  rw [finishPacket_eq]
  exact writeField_of_full h

/-- A full buffer has no room for a sub-packet's first field (R256, R258). -/
theorem writeSubpacket_of_full {pr : Params} {f : BitBuf} (h : f.op = 32 * pr.obufWords) (zsEn : Bool)
    (ws : List Word) : writeSubpacket pr zsEn ws f = .error ⟨.lengthError, f.op⟩ := by
  rw [writeSubpacket, subpacketFields, subpacketHeaderFields, List.cons_append, writeFields,
    writeField_of_full (by dsimp only; omega)]

end

/-- Settles O50: by the tests in their order. -/
theorem fmtOrderRaises : Obligations.FmtOrderRaises := by
  intro s hr
  have hadd : exec .fmtAdd s = execFmtAdd s := rfl
  have hlen := length_spanWords s
  refine ⟨fun hopen => ⟨?closedAdd, takesError_fmtFinish hr.1 (.inl ⟨hopen, rfl⟩)⟩, fun hopen harg => ?number,
    fun hopen harg hmax hspan => ?span,
    fun hopen hfull => takesError_fmtFinish hr.1 (.inr ⟨hopen, finishPacket_of_full hfull⟩),
    fun hopen harg hmax hspan hfull => ?full⟩
  case closedAdd =>
    refine takesError_of_abort (e := ⟨.badFormat, 0⟩) ?_
    rw [hadd, execFmtAdd, onSpan_of_ready hr, if_pos (by rw [hopen]; rfl)]
    rfl
  all_goals have hopened : ¬ (!s.fmtOpen) = true := by rw [hopen]; decide
  case number =>
    refine takesError_of_abort (e := ⟨.badFormat, arg0Nat s⟩) ?_
    rw [hadd, execFmtAdd, onSpan_of_ready hr, if_neg hopened, if_pos harg]
    rfl
  case span =>
    refine takesError_of_abort (e := ⟨.badLength, s.spanLen⟩) ?_
    rw [hadd, execFmtAdd, onSpan_of_ready hr, if_neg hopened, if_neg (by omega), if_pos (hlen ▸ hspan), hlen]
    rfl
  case full =>
    refine takesError_of_abort (e := ⟨.lengthError, s.op⟩) ?_
    rw [hadd, execFmtAdd, onSpan_of_ready hr, if_neg hopened, if_neg (by omega), if_neg (not_not.2 (hlen.trans hspan)),
      writeSubpacket_of_full hfull]
    rfl

end Sys2Proof.Machine

/-! PROOFS of the family 47_formatter, second part: a sub-packet decodes the same whatever follows it (R190), so each link
of a formatted packet decodes where the formatter wrote it, and the packet gives back what was formatted (R267). -/

namespace Sys2Proof.Machine

/-! ### A sub-packet with words behind it -/

section
variable {ws : List Word} (vs : List Word)

theorem wordAt_append {i : Nat} (h : i < ws.length) : wordAt (ws ++ vs) i = wordAt ws i := by
  rw [wordAt, wordAt, List.getD_append _ _ _ _ h]

theorem bitAt_append {q : Nat} (h : q < 32 * ws.length) : bitAt (ws ++ vs) q = bitAt ws q := by
  rw [bitAt, bitAt, List.getD_append _ _ _ _ (by omega)]

theorem bitRead_append {q n : Nat} (h : q + n ≤ 32 * ws.length) : bitRead (ws ++ vs) q n = bitRead ws q n :=
  eq_bitRead fun k hk => by rw [getLsbD_bitRead _ _ _ hk, bitAt_append vs (by omega)]

/-- A record that lies in the words reads the same with more behind them (R191). -/
theorem readRecord_append {q : Nat} {r : Rec} (h : readRecord ws q = .ok r) : readRecord (ws ++ vs) q = .ok r := by
  have hlen : ws.length ≤ (ws ++ vs).length := by simp
  unfold readRecord at h ⊢
  dsimp only at h ⊢
  split at h
  · cases h
  rename_i hlook
  split at h
  · cases h
  rename_i hrest
  have hbits := four_le_recordBits (classify (bitRead ws q 4))
  have hcode : (classify (bitRead ws q 4)).codeBits ≤ 4 := by cases classify (bitRead ws q 4) <;> decide
  rw [if_neg (by omega), bitRead_append vs (by omega), if_neg (by omega), bitRead_append vs (by omega)]
  exact h

theorem unpackSlots_append {o : ChmapOrder} {n slot q : Nat} {d : Link} {a : Link × Nat} {c c' : Acc}
    (h : unpackSlots o ws n slot q d c = .done a c') : unpackSlots o (ws ++ vs) n slot q d c = .done a c' := by
  induction n generalizing slot q d c with
  | zero => exact h
  | succ n ih =>
    unfold unpackSlots at h ⊢
    by_cases hp : present o d.chmap slot = true
    · rw [if_pos hp] at h ⊢
      cases hr : readRecord ws q with
      | error e => rw [hr] at h; cases h
      | ok r =>
        rw [hr] at h
        rw [readRecord_append vs hr]
        exact ih h
    · rw [if_neg hp] at h ⊢
      exact ih h

/-- A sub-packet that decodes, decodes the same whatever follows it (R175, R190). -/
theorem unpackSubpacket_append {pr : Params} {d : Link} {c c' : Acc}
    (h : unpackSubpacket pr ws false c = .done d c') : unpackSubpacket pr (ws ++ vs) false c = .done d c' := by
  have hlen := List.length_append (as := ws) (bs := vs)
  by_cases h0 : ws.length = 0
  · rw [unpackSubpacket_of_no_word c h0] at h
    cases h
  have hw0 : wordAt (ws ++ vs) 0 = wordAt ws 0 := wordAt_append vs (Nat.pos_of_ne_zero h0)
  cases he : (wordAt ws 0).getLsbD 25 with
  | true =>
    rw [unpackSubpacket_of_empty c h0 he] at h
    rw [unpackSubpacket_of_empty c (by omega) (hw0 ▸ he), hw0, h]
  | false =>
    by_cases h1 : ws.length = 1
    · rw [unpackSubpacket_of_one_word c h1 he] at h
      cases h
    have hw1 : wordAt (ws ++ vs) 1 = wordAt ws 1 := wordAt_append vs (by omega)
    rw [unpackSubpacket_of_zeroSuppressed c (by omega) he] at h
    rw [unpackSubpacket_of_zeroSuppressed c (by omega) (hw0 ▸ he), hw0, hw1]
    cases hrun : unpackSlots pr.chmapOrder ws 37 0 64 (headedRecord (wordAt ws 0) (wordAt ws 1)) c with
    | stop e c₁ => rw [hrun] at h; cases h
    | done a c₁ => rwa [unpackSlots_append vs hrun, ← hrun]

end

theorem Memory.words_append (m : Memory) (i a b : Nat) :
    Memory.words m i (a + b) = Memory.words m i a ++ Memory.words m (i + a) b := by
  simp only [Memory.words, List.range_add, List.map_append, List.map_map, Function.comp_def, Nat.add_assoc]

/-- The state in which the `n` words from word `off` of the span on are unpacked, without passthrough: the words of one
link alone. -/
def atLinkWords (off n : Nat) (s : State) : State := { atLink off false s with spanLen := n }

theorem spanWords_atLinkWords (off n : Nat) (s : State) :
    spanWords (atLinkWords off n s) = Memory.words s.ibuf (s.spanBase + off) n := rfl

theorem argPassthrough_atLinkWords (off n : Nat) (s : State) : argPassthrough (atLinkWords off n s) = false :=
  argPassthrough_atLink off false s

theorem spanWord_atLinkWords (off n i : Nat) (s : State) : spanWord (atLinkWords off n s) i = spanWord s (off + i) :=
  congrArg (Memory.readWord s.ibuf) (Nat.add_assoc _ _ _)

theorem ready_atLinkWords {s : State} (hr : Ready s) {off n : Nat} (h : off + n ≤ s.spanLen) :
    Ready (atLinkWords off n s) := by
  obtain ⟨hidle, hspan⟩ := hr
  refine ⟨hidle, ?_⟩
  simp only [atLinkWords, atLink, withSpan]
  omega

/-- A link that decodes on its own words decodes in the packet (R190, R221). -/
theorem unpacksTo_atLink_of_words {s : State} {off n : Nat} {d : Link} (h : off + n ≤ s.spanLen)
    (hd : UnpacksTo (atLinkWords off n s) d) : UnpacksTo (atLink off false s) d := by
  intro c
  have hsplit : spanWords (atLink off false s)
      = spanWords (atLinkWords off n s) ++ Memory.words s.ibuf (s.spanBase + off + n) (s.spanLen - off - n) := by
    rw [spanWords_atLinkWords, ← Memory.words_append, Nat.sub_sub,
      show n + (s.spanLen - (off + n)) = s.spanLen - off by omega]
    rfl
  have hrun := hd c
  rw [argPassthrough_atLinkWords] at hrun
  rw [hsplit, argPassthrough_atLink]
  exact unpackSubpacket_append _ hrun

/-! ### The sub-packet of one source frame -/

/-- Words of the sub-packet formatted from the source frame `ws` (R262). -/
def frameLen (zsEn : Bool) (ws : List Word) : Nat :=
  (64 + ((List.range 37).map fun k => zsBits zsEn (ws.getD (2 + k) 0#32)).sum + 31) / 32

/-- The record gives back the source frame: its common modes, every slot present, each slot's canonical form (R258 to
R261, R267). -/
structure LinkOf (zsEn : Bool) (ws : List Word) (d : Link) : Prop where
  cm0 : d.adcCm0 = (ws.getD 1 0#32).extractLsb' 10 10
  cm1 : d.adcCm1 = (ws.getD 1 0#32).extractLsb' 0 10
  chmap : d.chmap = BitVec.allOnes 37
  notEmpty : d.isEmpty = false
  slots : ∀ k, k < 37 → loadSlot d k = canon zsEn (ws.getD (2 + k) 0#32)

/-- The sub-packet of the source frame `ws` stands in the buffer from word `off` on: a span of these words decodes to the
frame's record. -/
def SubpacketAt (zsEn : Bool) (ws : List Word) (m : Memory) (off : Nat) : Prop :=
  ∀ u : State, Ready u → u.spanLen = frameLen zsEn ws → argPassthrough u = false →
    (∀ i, i < frameLen zsEn ws → spanWord u i = Memory.readWord m (off + i)) →
    ∃ d, UnpacksTo u d ∧ d.nwords = frameLen zsEn ws ∧ LinkOf zsEn ws d

/-- A sub-packet stands in every buffer that has its words. -/
theorem SubpacketAt.of_words {zsEn : Bool} {ws : List Word} {m m' : Memory} {off : Nat} (h : SubpacketAt zsEn ws m off)
    (hm : ∀ i, off ≤ i → i < off + frameLen zsEn ws → Memory.readWord m' i = Memory.readWord m i) :
    SubpacketAt zsEn ws m' off := by
  intro u hu hlen hpt hwords
  exact h u hu hlen hpt fun i hi => (hwords i hi).trans (hm _ (Nat.le_add_right _ _) (Nat.add_lt_add_left hi _))

/-- The state in which `FMT_ADD` adds the source frame `ws` as link `k` (R341). -/
def addState (ws : List Word) (k : Nat) (s : State) : State := { loadSpan ws s with arg0 := BitVec.ofNat 32 k }

theorem spanWord_addState {s : State} (hm : Memory.wf s.ibuf = true) {ws : List Word} (k : Nat) {i : Nat}
    (hi : i < ws.length) : spanWord (addState ws k s) i = ws.getD i 0#32 := by
  rw [List.getD_eq_getElem _ _ hi]
  exact Memory.readWord_writeWords hm 0 ws hi

theorem formattedBits_addState {s : State} (hm : Memory.wf s.ibuf = true) {ws : List Word} (hlen : ws.length = 40)
    (k : Nat) : (formattedBits (addState ws k s) + 31) / 32 = frameLen s.cfgZsEn ws := by
  have hbits : ∀ j ∈ List.range 37, zsBits s.cfgZsEn (spanWord (addState ws k s) (2 + j))
      = zsBits s.cfgZsEn (ws.getD (2 + j) 0#32) := fun j hj => by
    rw [List.mem_range] at hj
    rw [spanWord_addState hm k (by omega)]
  rw [formattedBits, frameLen, ← List.map_congr_left hbits]
  rfl

/-- A packet is open with `k` links, no fault is pending, and a source frame can be loaded (R258). -/
structure Formatting (k : Nat) (s : State) : Prop where
  idle : Idle s
  ready : FmtReady s
  nlinks : s.fmtNlinks = k
  ibuf : Memory.wf s.ibuf = true

/-- `FMT_ADD` of one source frame: its sub-packet behind the words there are (R258). -/
theorem exec_fmtAdd_addState {s : State} {k : Nat} (h : Formatting k s) (hk : k ≤ 11) {ws : List Word}
    (hlen : ws.length = 40) (hroom : s.olen + 39 ≤ s.params.obufWords) :
    frameLen s.cfgZsEn ws ≤ 39
      ∧ ∃ u, exec .fmtAdd (addState ws k s) = .next u ∧ Formatting (k + 1) u ∧ u.params = s.params
        ∧ u.cfgZsEn = s.cfgZsEn ∧ u.olen = s.olen + frameLen s.cfgZsEn ws
        ∧ (∀ i, i < s.olen → Memory.readWord u.obuf i = Memory.readWord s.obuf i)
        ∧ SubpacketAt s.cfgZsEn ws u.obuf s.olen := by
  obtain ⟨hop, -⟩ := h.ready.op_eq
  have hopWord : (addState ws k s).op / 32 = s.olen := (congrArg (· / 32) hop).trans (Nat.mul_div_right _ (by decide))
  have hfit : s.op + 32 * 39 ≤ 32 * s.params.obufWords := by omega
  have hr : Ready (addState ws k s) := ⟨h.idle, Nat.le_of_eq (Nat.zero_add _)⟩
  have harg : arg0Nat (addState ws k s) = k := Nat.mod_eq_of_lt (show k < 2 ^ 32 by omega)
  have hspan (i : Nat) (hi : i < 40) : spanWord (addState ws k s) i = ws.getD i 0#32 :=
    spanWord_addState h.ibuf k (by omega)
  obtain ⟨-, -, hmax, m, hexec, hm, houtside, -, hdecode⟩ :=
    fmtAddInverseOfErxUnpack (addState ws k s) hr h.ready (harg.trans h.nlinks.symm) (harg.trans_le hk) hlen hfit
  rw [formattedBits_addState h.ibuf hlen] at hmax hexec houtside hdecode
  rw [hopWord] at houtside hdecode
  obtain ⟨hopen, -, hword, holen, hhead⟩ := h.ready
  refine ⟨hmax, _, hexec, ⟨h.idle, ⟨hopen, hm, ?word, ?olen, ?head⟩, congrArg (· + 1) h.nlinks, ?ibuf⟩, rfl, rfl, rfl,
    fun i hi => ?before, fun u hu hulen hpt hwords => ?decode⟩
  case word => exact (Nat.add_mul_mod_self_left _ _ _).trans hword
  case olen =>
    change s.olen + _ = ceilWords (s.op + _)
    rw [holen, ceilWords, ceilWords]
    omega
  case head => exact hhead.trans (Nat.le_add_right _ _)
  case ibuf => exact Memory.wf_writeWords h.ibuf 0 ws
  case before =>
    have hbyte (j : Nat) (hj : j < 4) : Memory.readByte m (4 * i + j) = Memory.readByte s.obuf (4 * i + j) :=
      houtside _ (.inl (show 4 * i + j < 4 * s.olen by omega))
    have h0 : Memory.readByte m (4 * i) = Memory.readByte s.obuf (4 * i) := hbyte 0 (by decide)
    change Memory.readWord m i = _
    rw [Memory.readWord, Memory.readWord, h0, hbyte 1 (by decide), hbyte 2 (by decide), hbyte 3 (by decide)]
  case decode =>
    obtain ⟨d, hrun, -, -, hempty, hcm0, hcm1, hmap, hslots, -⟩ := hdecode u hu hulen hpt hwords
    obtain ⟨hd, hn⟩ := UnpacksTo.of_exec hu hrun hu.1
    rw [hspan 1 (by decide)] at hcm0 hcm1
    refine ⟨d, hd, hn.symm, hcm0, hcm1, hmap, hempty, fun k' hk' => ?_⟩
    rw [hslots k' hk', hspan _ (by omega)]
    rfl

/-! ### The sub-packets of a packet -/

/-- Words of the sub-packets of the source frames (R262). -/
def linksLen (zsEn : Bool) (spans : List (List Word)) : Nat := (spans.map (frameLen zsEn)).sum

theorem linksLen_cons (zsEn : Bool) (ws : List Word) (spans : List (List Word)) :
    linksLen zsEn (ws :: spans) = frameLen zsEn ws + linksLen zsEn spans := rfl

theorem linksLen_append (zsEn : Bool) (spans spans' : List (List Word)) :
    linksLen zsEn (spans ++ spans') = linksLen zsEn spans + linksLen zsEn spans' := by
  rw [linksLen, List.map_append, List.sum_append, linksLen, linksLen]

/-- The source frames have been added to the packet of `s`, one behind the other (R258, R341). -/
structure Added (spans : List (List Word)) (s t : State) : Prop where
  params : t.params = s.params
  zsEn : t.cfgZsEn = s.cfgZsEn
  olen : t.olen = s.olen + linksLen s.cfgZsEn spans
  room : t.olen ≤ s.olen + 39 * spans.length
  before : ∀ i, i < s.olen → Memory.readWord t.obuf i = Memory.readWord s.obuf i
  subpackets : ∀ i ws, spans[i]? = some ws →
    SubpacketAt s.cfgZsEn ws t.obuf (s.olen + linksLen s.cfgZsEn (spans.take i))

/-- With room for 39 words a link every source frame is added (R258). -/
theorem addLinks_of_room {spans : List (List Word)} {k : Nat} {s : State} (h : Formatting k s)
    (hk : k + spans.length ≤ 12) (hlen : ∀ ws ∈ spans, ws.length = 40)
    (hroom : s.olen + 39 * spans.length ≤ s.params.obufWords) :
    ∃ t, AddLinks spans k s t ∧ Formatting (k + spans.length) t ∧ Added spans s t := by
  induction spans generalizing k s with
  | nil => exact ⟨s, rfl, h, rfl, rfl, rfl, Nat.le_refl _, fun _ _ => rfl, fun i ws hi => by simp at hi⟩
  | cons ws spans ih =>
    rw [List.length_cons] at hk hroom
    obtain ⟨hmax, u, hexec, hu, hparams, hzs, holen, hbefore, hsub⟩ :=
      exec_fmtAdd_addState h (by omega) (hlen ws List.mem_cons_self) (by omega)
    obtain ⟨t, hadd, ht, hadded⟩ := ih hu (by omega) (fun v hv => hlen v (List.mem_cons_of_mem _ hv))
      (by rw [hparams]; omega)
    have hall := hadded.olen
    have hend := hadded.room
    rw [hzs] at hall
    refine ⟨t, ⟨u, hexec, hu.idle, hadd⟩, by rwa [List.length_cons, Nat.add_comm spans.length, ← Nat.add_assoc],
      hadded.params.trans hparams, hadded.zsEn.trans hzs, ?olen, ?room, fun i hi => ?before, fun i v hv => ?subpacket⟩
    case olen => rw [hall, holen, linksLen_cons, Nat.add_assoc]
    case room =>
      rw [List.length_cons]
      omega
    case before => rw [hadded.before i (by omega), hbefore i hi]
    case subpacket =>
      cases i with
      | zero =>
        cases hv
        exact hsub.of_words fun i _ hi => hadded.before i (holen ▸ hi)
      | succ i =>
        have hat := hadded.subpackets i v hv
        rwa [hzs, holen, Nat.add_assoc, ← linksLen_cons] at hat

/-! ### The words of a closed packet -/

/-- The first header word of a packet with length field `len` (R257, R265). -/
def packetWord0 (pr : Params) (len : BitVec 9) : Word := pr.econdMarker ++ len ++ 0#14

/-- The second header word of a packet with check `crc` (R257, R265). -/
def packetWord1 (s : State) (crc : BitVec 8) : Word :=
  s.arg0.extractLsb' 0 12 ++ s.arg1.extractLsb' 0 6 ++ s.arg2.extractLsb' 0 3 ++ 0#3 ++ crc

/-- The length field filled in (R265). -/
theorem startWord0_or (pr : Params) (n : Nat) :
    startWord0 pr ||| BitVec.ofNat 32 (n % 512 * 2 ^ 14) = packetWord0 pr (BitVec.ofNat 9 n) := by
  have hfield : n % 512 * 2 ^ 14 % 2 ^ 32 = (n % 2 ^ 9) <<< 14 := by
    rw [Nat.mod_eq_of_lt (by omega), Nat.shiftLeft_eq, show 2 ^ 9 = 512 from rfl]
  apply BitVec.eq_of_toNat_eq
  simp only [startWord0, packetWord0, BitVec.toNat_or, BitVec.toNat_append, BitVec.toNat_ofNat, Nat.zero_mod,
    Nat.or_zero, hfield, Nat.shiftLeft_or_distrib, ← Nat.shiftLeft_add]

/-- The check filled in (R265). -/
theorem startWord1_or (s : State) (crc : BitVec 8) : startWord1 s ||| crc.setWidth 32 = packetWord1 s crc := by
  apply BitVec.eq_of_toNat_eq
  simp only [startWord1, packetWord1, BitVec.toNat_or, BitVec.toNat_append, BitVec.toNat_setWidth, BitVec.toNat_ofNat,
    Nat.zero_mod, Nat.or_zero, ← Nat.shiftLeft_add]
  rw [Nat.mod_eq_of_lt (crc.isLt.trans (by decide))]

/-- The fields of the first header word as the decoder reads them (R210): neither passthrough nor truncated. -/
theorem packetWord0_fields (pr : Params) (len : BitVec 9) :
    (packetWord0 pr len).getLsbD 13 = false ∧ (packetWord0 pr len).getLsbD 6 = false
      ∧ (packetWord0 pr len).extractLsb' 14 9 = len := by
  simp only [packetWord0, BitVec.extractLsb'_append_eq_of_add_le, BitVec.extractLsb'_append_eq_of_le,
    BitVec.extractLsb'_eq_self, getLsbD_append_of_lt, BitVec.getLsbD_zero, Nat.reduceSub, Nat.reduceLT,
    Nat.le_refl, and_self]

/-- The fields of the second header word as the decoder reads them (R211). -/
theorem packetWord1_fields (s : State) (crc : BitVec 8) :
    (packetWord1 s crc).extractLsb' 20 12 = s.arg0.extractLsb' 0 12
      ∧ (packetWord1 s crc).extractLsb' 14 6 = s.arg1.extractLsb' 0 6
      ∧ (packetWord1 s crc).extractLsb' 11 3 = s.arg2.extractLsb' 0 3
      ∧ (packetWord1 s crc).extractLsb' 0 8 = crc := by
  simp only [packetWord1, BitVec.extractLsb'_append_eq_of_add_le, BitVec.extractLsb'_append_eq_of_le,
    BitVec.extractLsb'_eq_self, Nat.reduceLeDiff, Nat.reduceSub, Nat.le_refl, and_self]

section
variable {pr : Params} {n : Nat} {m : Memory} (h : Memory.wf m = true)

/-- Closing a packet leaves the sub-packets' words (R264). -/
theorem readWord_closedBuf_between {i : Nat} (hi : 2 ≤ i) (hn : i < n) :
    Memory.readWord (closedBuf pr n m) i = Memory.readWord m i := by
  rw [closedBuf, Memory.readWord_writeWord_other _ (Nat.ne_of_lt hn), finishedHeader]
  split
  · rfl
  · exact readWord_exactHeader hi

/-- The check word is the header's last 8 bits, which the check does not see (R217, R265). -/
theorem crc8Base_or_low (form : Crc8Base) (w0 w1 : Word) (c : BitVec 8) :
    crc8Base form w0 (w1 ||| c.setWidth 32) = crc8Base form w0 w1 := by
  apply BitVec.eq_of_getLsbD_eq
  intro k hk
  have hhigh : (w1 ||| c.setWidth 32).getLsbD (8 + k) = w1.getLsbD (8 + k) := by
    rw [BitVec.getLsbD_or, BitVec.getLsbD_setWidth, BitVec.getLsbD_of_ge c _ (Nat.le_add_right 8 k), Bool.and_false,
      Bool.or_false]
  rw [getLsbD_crc8Base _ _ _ hk, getLsbD_crc8Base _ _ _ hk, hhigh]

include h

/-- The trailer of the bit-exact form is the check of the words between the header and it (R265). -/
theorem readWord_closedBuf_trailer (hform : pr.fmtFidelity = .bitExact) :
    Memory.readWord (closedBuf pr n m) n
      = crc32Of ((List.range (n - 2)).map fun k => Memory.readWord (closedBuf pr n m) (2 + k)) := by
  have hwords : Memory.words (finishedHeader pr n m) 2 (n - 2)
      = (List.range (n - 2)).map fun k => Memory.readWord (closedBuf pr n m) (2 + k) :=
    List.map_congr_left fun k hk => by
      rw [List.mem_range] at hk
      rw [closedBuf, Memory.readWord_writeWord_other _ (by omega)]
  rw [← hwords, closedBuf, Memory.readWord_writeWord_same (finishedHeader_wf pr n h), trailerWord, hform]

/-- The header of a closed packet has the fields of `FMT_START`, with the length and the check that the bit-exact form
fills in (R257, R264, R265). -/
theorem closedBuf_header {s : State} (hn : 2 ≤ n) (h0 : Memory.readWord m 0 = startWord0 pr)
    (h1 : Memory.readWord m 1 = startWord1 s) :
    ∃ (len : BitVec 9) (crc : BitVec 8),
      Memory.readWord (closedBuf pr n m) 0 = packetWord0 pr len
        ∧ Memory.readWord (closedBuf pr n m) 1 = packetWord1 s crc
        ∧ (pr.fmtFidelity = .bitExact →
            len.toNat = (n - 1) % 512 ∧ headerCrc8 pr (packetWord0 pr len) (packetWord1 s crc) = crc) := by
  have hother {i : Nat} (hi : i < 2) :
      Memory.readWord (closedBuf pr n m) i = Memory.readWord (finishedHeader pr n m) i :=
    Memory.readWord_writeWord_other _ (by omega) _
  rw [hother (by decide), hother (by decide), finishedHeader]
  cases hform : pr.fmtFidelity with
  | sourcePlaceholder =>
    have hplain := startWord0_or pr 0
    rw [Nat.zero_mod, Nat.zero_mul, BitVec.or_zero] at hplain
    exact ⟨_, 0#8, h0.trans hplain, h1.trans ((startWord1_or s 0#8).symm.trans BitVec.or_zero).symm, nofun⟩
  | bitExact =>
    obtain ⟨he0, he1⟩ := readWord_exactHeader_header (pr := pr) h hn
    rw [exactWord0, h0, startWord0_or] at he0
    rw [exactWord1, exactWord0, h0, startWord0_or, h1, startWord1_or] at he1
    refine ⟨_, _, he0, he1, fun _ => ⟨rfl, ?_⟩⟩
    rw [← startWord1_or, headerCrc8, crc8Base_or_low, ← headerCrc8]

end

/-! ### The packet formatted -/

/-- The word at which link `i` of the packet of the source frames starts (R221, R262). -/
def linkOffset (zsEn : Bool) (spans : List (List Word)) (i : Nat) : Nat := 2 + linksLen zsEn (spans.take i)

theorem linkOffset_length (zsEn : Bool) (spans : List (List Word)) :
    linkOffset zsEn spans spans.length = 2 + linksLen zsEn spans := by
  rw [linkOffset, List.take_length]

/-- The packet of the source frames, closed, in the output buffer (R257 to R265). -/
structure Formatted (s : State) (spans : List (List Word)) (c : State) : Prop where
  olen : c.olen = 2 + linksLen s.cfgZsEn spans + 1
  header : ∃ (len : BitVec 9) (crc : BitVec 8),
    Memory.readWord c.obuf 0 = packetWord0 s.params len ∧ Memory.readWord c.obuf 1 = packetWord1 s crc
      ∧ (s.params.fmtFidelity = .bitExact →
          len.toNat = (c.olen - 2) % 512
            ∧ headerCrc8 s.params (packetWord0 s.params len) (packetWord1 s crc) = crc)
  trailer : s.params.fmtFidelity = .bitExact →
    Memory.readWord c.obuf (2 + linksLen s.cfgZsEn spans)
      = crc32Of ((List.range (linksLen s.cfgZsEn spans)).map fun k => Memory.readWord c.obuf (2 + k))
  subpackets : ∀ i ws, spans[i]? = some ws → SubpacketAt s.cfgZsEn ws c.obuf (linkOffset s.cfgZsEn spans i)

/-- `FMT_START` opens a packet of no links behind the header (R257). -/
theorem exec_fmtStart_opens {s : State} (hinv : s.Inv) (hi : Idle s) (hroom : 2 ≤ s.params.obufWords) :
    ∃ a, exec .fmtStart s = .next a ∧ Formatting 0 a ∧ a.params = s.params ∧ a.cfgZsEn = s.cfgZsEn ∧ a.olen = 2
      ∧ Memory.readWord a.obuf 0 = startWord0 s.params ∧ Memory.readWord a.obuf 1 = startWord1 s := by
  obtain ⟨-, m, hexec, hm, h0, h1, -⟩ := fmtStartWritesHeader s hi hroom hinv.obuf
  exact ⟨_, hexec, ⟨hi, ⟨rfl, hm, (by decide : 64 % 32 = 0), (by decide : 2 = ceilWords 64), Nat.le_refl 64⟩, rfl, hinv.ibuf⟩,
    rfl, rfl, rfl, h0, h1⟩

/-- A link's sub-packet ends where the next one starts, within the packet (R221). -/
theorem linkOffset_succ {zsEn : Bool} {spans : List (List Word)} {i : Nat} {ws : List Word} (h : spans[i]? = some ws) :
    linkOffset zsEn spans (i + 1) = linkOffset zsEn spans i + frameLen zsEn ws
      ∧ linkOffset zsEn spans i + frameLen zsEn ws ≤ 2 + linksLen zsEn spans := by
  have hnext : linksLen zsEn (spans.take (i + 1)) = linksLen zsEn (spans.take i) + frameLen zsEn ws := by
    rw [List.take_add_one, h, linksLen_append]
    rfl
  have hall := linksLen_append zsEn (spans.take (i + 1)) (spans.drop (i + 1))
  rw [List.take_append_drop] at hall
  simp only [linkOffset]
  omega

/-- With room for 39 words a link the packet is formatted (R257, R258, R264). -/
theorem exists_formatted {s : State} {spans : List (List Word)} (hinv : s.Inv) (hi : Idle s) (h12 : spans.length ≤ 12)
    (hlen : ∀ ws, ws ∈ spans → ws.length = 40) (hroom : 2 + 39 * spans.length + 1 ≤ s.params.obufWords) :
    ∃ a b c, exec .fmtStart s = .next a ∧ AddLinks spans 0 a b ∧ exec .fmtFinish b = .next c ∧ c.fault = none
      ∧ Formatted s spans c := by
  obtain ⟨a, hstart, ha, hparams, hzs, holen, h0, h1⟩ := exec_fmtStart_opens hinv hi (by omega)
  obtain ⟨b, hadd, hb, hadded⟩ := addLinks_of_room ha (by omega) hlen (by rw [hparams]; omega)
  have hblen : b.olen = 2 + linksLen s.cfgZsEn spans := by rw [hadded.olen, holen, hzs]
  have hbparams : b.params = s.params := hadded.params.trans hparams
  have hbroom : b.op + 32 ≤ 32 * b.params.obufWords := by
    obtain ⟨hop, -⟩ := hb.ready.op_eq
    have hend := hadded.room
    rw [hop, hbparams]
    omega
  have hbwf : Memory.wf b.obuf = true := hb.ready.2.1
  refine ⟨a, b, _, hstart, hadd, exec_fmtFinish_of_room hb.idle hb.ready hbroom, hb.idle, congrArg (· + 1) hblen,
    ?header, fun hform => ?trailer, fun i ws hi => ?subpacket⟩
  case header =>
    have hkeep (i : Nat) (hi : i < 2) : Memory.readWord b.obuf i = Memory.readWord a.obuf i :=
      hadded.before i (holen ▸ hi)
    have hwords := closedBuf_header (pr := b.params) (s := s) hbwf (n := b.olen) (by omega)
      ((hkeep 0 (by decide)).trans (hbparams ▸ h0)) ((hkeep 1 (by decide)).trans h1)
    rwa [hbparams] at hwords ⊢
  case trailer =>
    have hword := readWord_closedBuf_trailer (n := b.olen) hbwf (hbparams ▸ hform)
    rw [hblen, Nat.add_sub_cancel_left] at hword
    rwa [hblen]
  case subpacket =>
    have hat := hadded.subpackets i ws hi
    rw [hzs, holen] at hat
    obtain ⟨-, hend⟩ := linkOffset_succ (zsEn := s.cfgZsEn) hi
    refine hat.of_words fun j hj hjn => readWord_closedBuf_between (by omega) ?_
    rw [hblen]
    exact hjn.trans_le hend

/-! ### The packet decoded -/

section
variable {zsEn : Bool} {spans : List (List Word)} {m : Memory} {d : State} (hr : Ready d)
  (hfit : 2 + linksLen zsEn spans ≤ d.spanLen)
  (hwords : ∀ i, i < 2 + linksLen zsEn spans → spanWord d i = Memory.readWord m i)
  (h : ∀ i ws, spans[i]? = some ws → SubpacketAt zsEn ws m (linkOffset zsEn spans i))
include hr hfit hwords h

/-- Each link decodes where its sub-packet was written, to the record of its source frame (R221, R267). -/
theorem unpacksTo_linkAt {i : Nat} {ws : List Word} (hi : spans[i]? = some ws) :
    UnpacksTo (atLink (linkOffset zsEn spans i) false d) (linkAt d false (linkOffset zsEn spans i))
      ∧ (linkAt d false (linkOffset zsEn spans i)).nwords = frameLen zsEn ws
      ∧ LinkOf zsEn ws (linkAt d false (linkOffset zsEn spans i)) := by
  obtain ⟨-, hend⟩ := linkOffset_succ (zsEn := zsEn) hi
  obtain ⟨x, hx, hnwords, hlink⟩ := h i ws hi (atLinkWords (linkOffset zsEn spans i) (frameLen zsEn ws) d)
    (ready_atLinkWords hr (hend.trans hfit)) rfl (argPassthrough_atLinkWords _ _ d) fun j hj => by
      rw [spanWord_atLinkWords, hwords _ (by omega)]
  have hunpacks := unpacksTo_atLink_of_words (hend.trans hfit) hx
  rw [linkAt_of_unpacksTo hunpacks]
  exact ⟨hunpacks, hnwords, hlink⟩

theorem linksAre_of_subpackets :
    LinksAre d false spans.length (linkOffset zsEn spans) fun i => linkAt d false (linkOffset zsEn spans i) where
  start := rfl
  unpacks i hi := (unpacksTo_linkAt hr hfit hwords h (List.getElem?_eq_getElem hi)).1
  next i hi := by
    have hget := List.getElem?_eq_getElem hi
    rw [(linkOffset_succ hget).1, (unpacksTo_linkAt hr hfit hwords h hget).2.1]

end

/-- Settles O52: the packet stands in the buffer as it was formatted, so its header reads back, its links decode one
behind the other, and the word behind them is the trailer. -/
theorem formatThenDecodeRoundTrip : Obligations.FormatThenDecodeRoundTrip := by
  intro s spans hinv hi _ h12 hlen _ hroom
  obtain ⟨a, b, c, hstart, hadd, hfinish, hfault, hc⟩ := exists_formatted hinv hi h12 hlen hroom
  refine ⟨a, b, c, hstart, hadd, hfinish, hfault, fun d hr hparams hn hspan hwords => ?_⟩
  have holen := hc.olen
  obtain ⟨len, crc, h0, h1, hexact⟩ := hc.header
  obtain ⟨hpt, htrunc, hlength⟩ := packetWord0_fields s.params len
  obtain ⟨hbx, hl1a, horbit, hcrc⟩ := packetWord1_fields s crc
  rw [← h0, ← hwords 0 (by omega)] at hpt htrunc hlength
  rw [← h1, ← hwords 1 (by omega)] at hbx hl1a horbit hcrc
  have hfit : 2 + linksLen s.cfgZsEn spans < d.spanLen := by omega
  have hat (i : Nat) (ws : List Word) (hget : spans[i]? = some ws) :=
    unpacksTo_linkAt hr hfit.le (fun j hj => hwords j (by omega)) hc.subpackets hget
  have hlinks := linksAre_of_subpackets hr hfit.le (fun j hj => hwords j (by omega)) hc.subpackets
  have hend : linkOffset s.cfgZsEn spans (configuredLinks d) = 2 + linksLen s.cfgZsEn spans := by
    rw [configuredLinks, hn, linkOffset_length]
  rw [← hpt, ← hn] at hlinks
  have hoff : linkOffset s.cfgZsEn spans (configuredLinks d) < d.spanLen := hend ▸ hfit
  have hrun := (econdFrom_of_links (by omega) htrunc hlinks d.acc).trans (if_neg (by omega))
  obtain ⟨-, hflength, hfpt, -, -, -, -, hftrunc, -, hfbx, hfl1a, hforbit, -⟩ := econdHeaderOf_packetRecord d d.draws
    (linkOffset s.cfgZsEn spans) fun i => linkAt d ((spanWord d 0).getLsbD 13) (linkOffset s.cfgZsEn spans i)
  refine ⟨_, exec_econdFrom_of_done hr hrun, hr.1, hfbx.trans hbx, hfl1a.trans hl1a, hforbit.trans horbit,
    hfpt.trans hpt, hftrunc.trans htrunc, (congrArg (· + 1) hend).trans holen.symm,
    ((List.length_map _).trans List.length_range).trans hn, fun i ws l hget hl => ?link,
    fun hform => ⟨?header, ?trailer, ?length⟩⟩
  case link =>
    obtain ⟨hi, -⟩ := List.getElem?_eq_some_iff.mp hget
    obtain ⟨-, -, hlink⟩ := hat i ws hget
    rw [← hpt] at hlink
    obtain rfl := Option.some.inj ((packetRecord_link d _ _ _ (hi.trans_eq hn.symm)).symm.trans hl)
    exact ⟨hlink.cm0, hlink.cm1, hlink.chmap, hlink.notEmpty, hlink.slots⟩
  case header =>
    refine (packetRecord_headerFlag d ..).trans (decide_eq_false (not_not_intro ?_))
    rw [hparams, hwords 0 (by omega), hwords 1 (by omega), h0, h1, (hexact hform).2]
    rw [hwords 1 (by omega), h1] at hcrc
    exact hcrc.symm
  case trailer =>
    refine (packetRecord_trailerFlag d _ _ _ hoff.le).trans (decide_eq_false (not_not_intro ?_))
    rw [hend, Nat.add_sub_cancel_left, hwords _ (by omega), hc.trailer hform]
    exact congrArg crc32Of (List.map_congr_left fun k hk => hwords _ (by have := List.mem_range.mp hk; omega))
  case length => exact (congrArg BitVec.toNat (hflength.trans hlength)).trans (hexact hform).1

end Sys2Proof.Machine

/-! PROOFS of the family 48_stream_scan: the windows the scans open, what they do where there is none (R281 to R289), and
that nothing else stops the machine (R280). -/

namespace Sys2Proof.Machine

/-! ### The window -/

/-- Settles O53: the scan finds the pair, and the words behind it are the window. -/
theorem scanRocFindsWindow : Obligations.ScanRocFindsWindow :=
  fun _ _ _ _ hi hm h hfirst hpos hmax hlen => ⟨rfl, opensWindow_roc rfl hi hm h hfirst hpos hmax hlen⟩

/-- Settles O54: the scan finds the start word, and the words behind its length word are the window. -/
theorem scanMsFindsWindow : Obligations.ScanMsFindsWindow :=
  fun _ _ _ _ hi hm h hfirst hmax hlen => ⟨rfl, opensWindow_ms rfl hi hm h hfirst hmax hlen⟩

/-! ### No window -/

theorem findRocStart_of_none {s : State} (h : ∀ j, ¬ RocStartAt s j) : findRocStart none 0 (searchWords s) = none := by
  cases hf : findRocStart none 0 (searchWords s) with
  | none => rfl
  | some used =>
    obtain ⟨hprev, -⟩ | ⟨-, i, -, h0, h1, -⟩ := findRocStart_some hf
    · cases hprev
    · exact absurd ⟨getElem?_searchWords_eq h0, getElem?_searchWords_eq h1⟩ (h i)

/-- A finite stream with no start marker ahead is consumed to its end (R281, R284, R286). -/
theorem scanFoundNothing_of_finite {s : State} (hc : s.strm.cycle = []) (hin : s.InStream) :
    scanFoundNothing s = .next { s with res := 0#32, strmPos := s.strm.words.length, strmEof := true } := by
  rw [scanFoundNothing, if_pos hc, meetStreamEnd, Nat.add_sub_cancel' (hin hc)]

/-- The error of a scan is its instruction's, wherever the stream port stands when it is raised (R303). -/
theorem takesError_of_failScan {i : Instr} {s u : State} (hd : destOf i = .strm) {e : Raise}
    (hu : u = { s with strmPos := u.strmPos, strmEof := u.strmEof })
    (h : exec i s = .next (failScan (faultNumber i) e u)) :
    TakesError i s e.kind e.info
      ∧ ∀ t, exec i s = .next t → t.strmPos = u.strmPos ∧ t.strmEof = u.strmEof := by
  refine ⟨⟨_, h, ⟨rfl, rfl, rfl⟩, ?_⟩, fun t ht => ?_⟩
  · rw [hu, hd]
    exact raised_faultFrame (dst := .strm) (fun hne => absurd rfl hne) (faultNumber i) e s.acc
  · cases h.symm.trans ht
    exact ⟨abort_strmPos _ _ _ _, abort_strmEof _ _ _ _⟩

/-- A stream that has a word at a position goes beyond it, if it is finite. -/
theorem lt_length_of_word {st : Stream} {i : Nat} {w : Word} (h : st.word i = some w) (hc : st.cycle = []) :
    i < st.words.length := by
  by_contra hle
  rw [Stream.word_eq_none.2 ⟨hc, Nat.le_of_not_lt hle⟩] at h
  cases h

/-- Fewer words than the window asks for: the stream ended inside the packet (R284, R289). -/
theorem takeWindow_of_short (op : BitVec 6) (head : List Word) {n : Nat} {s : State} (hc : s.strm.cycle = [])
    (h : s.strm.words.length - s.strmPos < n) : takeWindow op head n s = failAtEnd op s := by
  have hlen := Stream.length_read s.strm s.strmPos n
  rw [if_pos hc] at hlen
  exact if_pos (by omega)

/-- At the end of a finite stream every word is consumed (R280). -/
theorem failAtEnd_eq {op : BitVec 6} {s : State} (hc : s.strm.cycle = []) (hin : s.InStream) :
    failAtEnd op s
      = .next (failScan op ⟨.lengthError, s.strm.words.length⟩
          { s with strmPos := s.strm.words.length, strmEof := true }) := by
  rw [failAtEnd, meetStreamEnd, Nat.add_sub_cancel' (hin hc)]

section
variable {s : State} (hi : Idle s) {j : Nat}

section
variable (h : RocStartAt s j) (hfirst : ∀ k, k < j → ¬ RocStartAt s k)
include hi h hfirst

/-- `SCAN_ROC` goes on behind the first start pair (R281). -/
theorem execScanRoc_of_first : exec .scanRoc s = rocWindow (consumeWords (j + 2) s) := by
  rw [exec, execScanRoc, whenIdle_of_idle hi, findRocStart_of_first h hfirst, afterRocSearch]

/-- A length word out of range is the last word consumed (R283). -/
theorem scanRoc_of_bad_length {n : Word} (hn : s.strm.word (s.strmPos + j + 2) = some n)
    (hbad : n.toNat = 0 ∨ s.params.maxWindow < n.toNat) :
    exec .scanRoc s = .next (failScan 0x20#6 ⟨.badLength, n.toNat⟩ (consumeWords (j + 3) s)) := by
  have hnext : strmNext (consumeWords (j + 2) s) = some n := hn
  rw [execScanRoc_of_first hi h hfirst, rocWindow, hnext]
  exact (if_pos hbad).trans (by rw [consumeWords_consumeWords])

/-- The stream ends behind the start pair or inside the window (R284). -/
theorem scanRoc_of_short (hc : s.strm.cycle = [])
    (hend : s.strm.word (s.strmPos + j + 2) = none
      ∨ ∃ n, s.strm.word (s.strmPos + j + 2) = some n ∧ n.toNat ≤ s.params.maxWindow
          ∧ s.strm.words.length < s.strmPos + j + 2 + n.toNat) :
    exec .scanRoc s
      = .next (failScan 0x20#6 ⟨.lengthError, s.strm.words.length⟩
          { s with strmPos := s.strm.words.length, strmEof := true }) := by
  have hpair := lt_length_of_word h.2 hc
  rw [execScanRoc_of_first hi h hfirst, rocWindow]
  obtain hnone | ⟨n, hn, hmax, hcut⟩ := hend
  · rw [show strmNext (consumeWords (j + 2) s) = none from hnone]
    refine failAtEnd_eq (s := consumeWords (j + 2) s) hc fun _ => ?_
    exact hpair
  · have hword := lt_length_of_word hn hc
    rw [show strmNext (consumeWords (j + 2) s) = some n from hn]
    dsimp only
    rw [consumeWords_params, if_neg (by omega), consumeWords_consumeWords,
      takeWindow_of_short 0x20#6 [n] (s := consumeWords (j + 2 + 1) s) hc ?_]
    · refine failAtEnd_eq (s := consumeWords (j + 2 + 1) s) hc fun _ => ?_
      exact hword
    · rw [consumeWords_strm, consumeWords_strmPos]
      omega

end

section
variable (h : MsStartAt s j) (hfirst : ∀ k, k < j → ¬ MsStartAt s k)
include hi h hfirst

/-- `SCAN_MS` goes on behind the first start word (R286). -/
theorem execScanMs_of_first : exec .scanMs s = msPrefixAndWindow (consumeWords (j + 1) s) := by
  rw [exec, execScanMs, whenIdle_of_idle hi, findMsStart_of_first h hfirst, afterMsSearch]

/-- A length word out of range is the last word consumed (R288). -/
theorem scanMs_of_bad_length {n : Word} (hn : s.strm.word (s.strmPos + j + 1) = some n)
    (hbad : s.params.maxWindow < n.toNat) :
    exec .scanMs s = .next (failScan 0x21#6 ⟨.badLength, n.toNat⟩ (consumeWords (j + 2) s)) := by
  have hnext : strmNext (consumeWords (j + 1) s) = some n := hn
  rw [execScanMs_of_first hi h hfirst, msPrefixAndWindow, hnext]
  exact (if_pos hbad).trans (by rw [consumeWords_consumeWords])

/-- The stream ends behind the start word or inside the window (R289). -/
theorem scanMs_of_short (hc : s.strm.cycle = [])
    (hend : s.strm.word (s.strmPos + j + 1) = none
      ∨ ∃ n, s.strm.word (s.strmPos + j + 1) = some n ∧ n.toNat ≤ s.params.maxWindow
          ∧ s.strm.words.length < s.strmPos + j + 2 + n.toNat) :
    exec .scanMs s
      = .next (failScan 0x21#6 ⟨.lengthError, s.strm.words.length⟩
          { s with strmPos := s.strm.words.length, strmEof := true }) := by
  have hstart := lt_length_of_word h hc
  rw [execScanMs_of_first hi h hfirst, msPrefixAndWindow]
  obtain hnone | ⟨n, hn, hmax, hcut⟩ := hend
  · rw [show strmNext (consumeWords (j + 1) s) = none from hnone]
    refine failAtEnd_eq (s := consumeWords (j + 1) s) hc fun _ => ?_
    exact hstart
  · have hword := lt_length_of_word hn hc
    rw [show strmNext (consumeWords (j + 1) s) = some n from hn]
    dsimp only
    rw [consumeWords_consumeWords, msWindow, consumeWords_params, if_neg (Nat.not_lt.2 hmax),
      takeWindow_of_short 0x21#6 [] (s := consumeWords (j + 1 + 1) s) hc ?_]
    · refine failAtEnd_eq (s := consumeWords (j + 1 + 1) s) hc fun _ => ?_
      exact hword
    · rw [consumeWords_strm, consumeWords_strmPos]
      omega

end

end

/-- Settles O55: no marker ahead; behind the first marker a length word out of range; or the stream ends there. -/
theorem scansWithoutWindow : Obligations.ScansWithoutWindow := by
  intro s hi hin
  refine ⟨fun hc hnone => ?rocNone, fun hc hnone => ?msNone,
    fun j h hfirst => ⟨fun n hn hbad => ?rocLength, fun hc hend => ?rocEnd⟩,
    fun j h hfirst => ⟨fun n hn hbad => ?msLength, fun hc hend => ?msEnd⟩⟩
  case rocNone =>
    rw [exec, execScanRoc, whenIdle_of_idle hi, findRocStart_of_none hnone]
    exact scanFoundNothing_of_finite hc hin
  case msNone =>
    rw [exec, execScanMs, whenIdle_of_idle hi, findMsStart_of_none hnone]
    exact scanFoundNothing_of_finite hc hin
  case rocLength =>
    obtain ⟨herr, hport⟩ := takesError_of_failScan rfl rfl (scanRoc_of_bad_length hi h hfirst hn hbad)
    exact ⟨herr, fun t ht => (hport t ht).1⟩
  case rocEnd => exact takesError_of_failScan rfl rfl (scanRoc_of_short hi h hfirst hc hend)
  case msLength =>
    obtain ⟨herr, hport⟩ := takesError_of_failScan rfl rfl (scanMs_of_bad_length hi h hfirst hn hbad)
    exact ⟨herr, fun t ht => (hport t ht).1⟩
  case msEnd => exact takesError_of_failScan rfl rfl (scanMs_of_short hi h hfirst hc hend)

/-! ### What can stop -/

/-- The result is a next state. -/
def Answers (r : Result) : Prop := ∃ t, r = .next t

theorem Answers.next (t : State) : Answers (.next t) := ⟨t, rfl⟩

theorem Answers.ite {c : Prop} [Decidable c] {r r' : Result} (h : Answers r) (h' : Answers r') :
    Answers (if c then r else r') := by
  split
  · exact h
  · exact h'

theorem Answers.whenIdle {s : State} {k : Result} (h : Answers k) : Answers (whenIdle s k) :=
  .ite (.next s) h

section
variable {dst : Dest} {op : BitVec 6} {s : State}

theorem Answers.onSpan {k : List Word → Result} (h : ∀ ws, Answers (k ws)) : Answers (onSpan dst op s k) :=
  .whenIdle (.ite (.next _) (h _))

theorem Answers.onElement {look code n : Nat} {k : List Word → State → Result} (h : ∀ ws u, Answers (k ws u)) :
    Answers (onElement dst op look code n s k) :=
  .onSpan fun _ => .ite (.next _) (.ite (.next _) (h _ _))

theorem Answers.onWord {k : List Word → State → Result} (h : ∀ ws u, Answers (k ws u)) :
    Answers (onWord dst op s k) :=
  .onElement h

theorem Answers.finish {α : Type} {r : Run α} {put : α → State → State} : Answers (finish dst op s r put) := by
  cases r <;> exact .next _

theorem Answers.finishFmt {r : Except Raise BitBuf} {put : State → State} : Answers (finishFmt op s r put) := by
  cases r <;> exact .next _

theorem Answers.readArgBits {put : Word → State} : Answers (readArgBits op s put) :=
  .onSpan fun _ => .ite (.next _) (.ite (.next _) (.next _))

theorem Answers.recordAt {k : RecClass} {slot : Nat} {c : BitVec 4} {w : Word} : Answers (recordAt k slot c w s) :=
  .onElement fun _ _ => .next _

theorem Answers.sumOp {f : BitVec 7 → Word} : Answers (sumOp op s f) :=
  .whenIdle (.ite (.next _) (.ite (.next _) (.next _)))

end

/-- Every instruction but those of the stream answers a next state, in every state. -/
theorem exec_answers {i : Instr} (hd : destOf i ≠ .strm) (s : State) : Answers (exec i s) := by
  unfold exec
  cases i with
  | markRocStart0 | markRocStart1 | markRocEnd0 | markRocEnd1 | markMsStart | markMsEnd | msPrefix | scanRoc | scanMs =>
    exact absurd rfl hd
  | sample | daqHdr | daqCm | trigSoft | trigData | econdHdr0 | econdHdr1 | econdTrl | erxHdr0 | erxHdr1 | ptSample =>
    exact .onWord fun _ _ => .next _
  | zs0000 | zs0001 | zs0010 | zs0011 | fp01 | fp10 | fp11 => exact .recordAt
  | daqCrc | rocLen | rocLtab => exact .onWord fun _ _ => .ite (.next _) (.next _)
  | msHdr => exact .onWord fun _ _ => .ite (.next _) .finish
  | pad | raw | nop | clrFault | clrLog => exact .next _
  | crc32 | crc8 => exact .ite (.next _) (.next _)
  | alignWord | atEnd | sampleDec | sampleEnc | crc8U64 => exact .whenIdle (.next _)
  | seekWord | seekByte | setSpan => exact .whenIdle (.ite (.next _) (.next _))
  | trigCsum | trigLsum => exact .sumOp
  | rdBits | peekBits => exact .readArgBits
  | crc32Span => exact .onSpan fun _ => .next _
  | daqFrom | trigFrom | erxUnpack | econdFrom | msFrom | rocFrom => exact .onSpan fun _ => .finish
  | fmtStart => exact .whenIdle .finishFmt
  | fmtAdd => exact .onSpan fun _ => .ite (.next _) (.ite (.next _) (.ite (.next _) .finishFmt))
  | fmtFinish => exact .whenIdle (.ite (.next _) .finishFmt)

theorem Answers.takeWindow (op : BitVec 6) (head : List Word) (n : Nat) (s : State) :
    Answers (takeWindow op head n s) :=
  .ite (.next _) (.next _)

theorem Answers.rocWindow (s : State) : Answers (rocWindow s) := by
  unfold Machine.rocWindow
  split
  · exact .next _
  · exact .ite (.next _) (.takeWindow _ _ _ _)

theorem Answers.msWindow (n : Word) (s : State) : Answers (msWindow n s) :=
  .ite (.next _) (.takeWindow _ _ _ _)

theorem Answers.msPrefixAndWindow (s : State) : Answers (msPrefixAndWindow s) := by
  unfold Machine.msPrefixAndWindow
  split
  · exact .next _
  · exact .msWindow _ _

/-- The result is a next state, or the stop of a scan of an infinite stream with `P` (R280). -/
def AnswersUnless (P : Prop) (s : State) (r : Result) : Prop :=
  Answers r ∨ r = .fault .endlessScan ∧ Idle s ∧ s.strm.cycle ≠ [] ∧ P

theorem AnswersUnless.whenIdle {P : Prop} {s : State} {k : Result} (h : Answers k ∨ k = scanFoundNothing s ∧ P) :
    AnswersUnless P s (whenIdle s k) := by
  by_cases hi : Idle s
  · rw [whenIdle_of_idle hi]
    obtain hk | ⟨rfl, hp⟩ := h
    · exact .inl hk
    · by_cases hc : s.strm.cycle = []
      · exact .inl ⟨_, if_pos hc⟩
      · exact .inr ⟨if_neg hc, hi, hc, hp⟩
  · rw [whenIdle_of_fault hi]
    exact .inl (.next s)

theorem afterRocSearch_answers (found : Option Nat) (s : State) :
    Answers (afterRocSearch found s) ∨ afterRocSearch found s = scanFoundNothing s ∧ found = none := by
  cases found with
  | none => exact .inr ⟨rfl, rfl⟩
  | some used => exact .inl (.rocWindow _)

theorem afterMsSearch_answers (found : Option Nat) (s : State) :
    Answers (afterMsSearch found s) ∨ afterMsSearch found s = scanFoundNothing s ∧ found = none := by
  cases found with
  | none => exact .inr ⟨rfl, rfl⟩
  | some used => exact .inl (.msPrefixAndWindow _)

/-! ### A search that fails has seen every marker there is -/

section
variable {s : State} {j : Nat}

theorem not_rocStartAt_of_none (h : findRocStart none 0 (searchWords s) = none) (j : Nat) : ¬ RocStartAt s j := by
  rintro ⟨h0, h1⟩
  obtain ⟨j', -, hlt, hword0, hword1⟩ := s.strm.within_horizon s.strmPos (j := j) (by rw [h0]; nofun)
  exact (findRocStart_none h j').1
    ⟨(getElem?_searchWords (by omega)).trans (hword0.trans h0),
      (getElem?_searchWords (by omega)).trans (hword1.trans h1)⟩

theorem not_msStartAt_of_none (h : findMsStart 0 (searchWords s) = none) (j : Nat) : ¬ MsStartAt s j := by
  intro h0
  obtain ⟨j', -, hlt, hword0, -⟩ := s.strm.within_horizon s.strmPos (j := j) (by rw [h0]; nofun)
  exact findMsStart_none h j' ((getElem?_searchWords (by omega)).trans (hword0.trans h0))

/-- The words behind the next one, as a search that has met it sees them. -/
theorem getElem?_searchWords_tail (h : j + 2 < s.strm.horizon (s.strmPos + 1)) :
    (searchWords s).tail[j]? = s.strm.word (s.strmPos + 1 + j)
      ∧ (searchWords s).tail[j + 1]? = s.strm.word (s.strmPos + 1 + j + 1) := by
  have hhorizon : s.strm.horizon (s.strmPos + 1) ≤ s.strm.horizon s.strmPos := by
    simp only [Stream.horizon]
    omega
  rw [List.getElem?_tail, List.getElem?_tail, getElem?_searchWords (by omega), getElem?_searchWords (by omega)]
  constructor <;> congr 1 <;> omega

theorem not_rocStartAt_of_met {w : Word} (h : findRocStart (some w) 1 (searchWords s).tail = none) (j : Nat) :
    ¬ RocStartAt s (j + 1) := by
  rw [RocStartAt, show s.strmPos + (j + 1) = s.strmPos + 1 + j by omega]
  rintro ⟨h0, h1⟩
  obtain ⟨j', -, hlt, hword0, hword1⟩ := s.strm.within_horizon (s.strmPos + 1) (j := j) (by rw [h0]; nofun)
  obtain ⟨hseen0, hseen1⟩ := getElem?_searchWords_tail hlt
  exact (findRocStart_none h j').1 ⟨hseen0.trans (hword0.trans h0), hseen1.trans (hword1.trans h1)⟩

theorem not_msStartAt_of_dropped (h : findMsStart 1 (searchWords s).tail = none) (j : Nat) :
    ¬ MsStartAt s (j + 1) := by
  rw [MsStartAt, show s.strmPos + (j + 1) = s.strmPos + 1 + j by omega]
  intro h0
  obtain ⟨j', -, hlt, hword0, -⟩ := s.strm.within_horizon (s.strmPos + 1) (j := j) (by rw [h0]; nofun)
  exact findMsStart_none h j' ((getElem?_searchWords_tail hlt).1.trans (hword0.trans h0))

end

/-- `SCAN_ROC` answers, or there is no start pair ahead (R280). -/
theorem scanRoc_answersUnless (s : State) : AnswersUnless (∀ j, ¬ RocStartAt s j) s (exec .scanRoc s) :=
  .whenIdle ((afterRocSearch_answers _ s).imp_right fun ⟨hrun, hf⟩ => ⟨hrun, not_rocStartAt_of_none hf⟩)

/-- `SCAN_MS` answers, or there is no start word ahead (R280). -/
theorem scanMs_answersUnless (s : State) : AnswersUnless (∀ j, ¬ MsStartAt s j) s (exec .scanMs s) :=
  .whenIdle ((afterMsSearch_answers _ s).imp_right fun ⟨hrun, hf⟩ => ⟨hrun, not_msStartAt_of_none hf⟩)

theorem scanRocMeets_answersUnless (w : Word) (s : State) :
    AnswersUnless (∀ j, ¬ RocStartAt s (j + 1)) s (scanRocMeets w s) :=
  .whenIdle ((afterRocSearch_answers _ s).imp_right fun ⟨hrun, hf⟩ => ⟨hrun, not_rocStartAt_of_met hf⟩)

theorem scanMsDrops_answersUnless (s : State) : AnswersUnless (∀ j, ¬ MsStartAt s (j + 1)) s (scanMsDrops s) :=
  .whenIdle ((afterMsSearch_answers _ s).imp_right fun ⟨hrun, hf⟩ => ⟨hrun, not_msStartAt_of_dropped hf⟩)

theorem execMsPrefix_answersUnless (n : Word) (s : State) :
    AnswersUnless (∀ j, ¬ MsStartAt s j) s (execMsPrefix n s) := by
  refine .whenIdle ?_
  split
  · exact .inr ⟨rfl, not_msStartAt_of_none ‹_›⟩
  · exact .inl (.msWindow _ _)

/-- The scan of the stream that the instruction is a part of has no start marker behind the next word. -/
def NoMarkerBehind (i : Instr) (s : State) : Prop :=
  (faultNumber i = 0x20#6 ∧ ∀ j, ¬ RocStartAt s (j + 1)) ∨ (faultNumber i = 0x21#6 ∧ ∀ j, ¬ MsStartAt s (j + 1))

theorem AnswersUnless.imp {P Q : Prop} {s : State} {r : Result} (hPQ : P → Q) (h : AnswersUnless P s r) :
    AnswersUnless Q s r :=
  h.imp_right fun ⟨hr, hi, hc, hp⟩ => ⟨hr, hi, hc, hPQ hp⟩

/-- Every instruction answers, or is a scan of an infinite stream with no start marker behind its next word. -/
theorem exec_answersUnless (i : Instr) (s : State) : AnswersUnless (NoMarkerBehind i s) s (exec i s) := by
  by_cases hd : destOf i = .strm
  · cases i with
    | scanRoc => exact (scanRoc_answersUnless s).imp fun h => .inl ⟨rfl, fun j => h (j + 1)⟩
    | markRocStart0 | markRocStart1 | markRocEnd0 | markRocEnd1 =>
      exact (scanRocMeets_answersUnless _ s).imp fun h => .inl ⟨rfl, h⟩
    | scanMs => exact (scanMs_answersUnless s).imp fun h => .inr ⟨rfl, fun j => h (j + 1)⟩
    | markMsStart => exact .inl (.whenIdle (.msPrefixAndWindow _))
    | markMsEnd => exact (scanMsDrops_answersUnless s).imp fun h => .inr ⟨rfl, h⟩
    | msPrefix n => exact (execMsPrefix_answersUnless n s).imp fun h => .inr ⟨rfl, fun j => h (j + 1)⟩
    | _ => cases hd
  · exact .inl (exec_answers hd s)

theorem AnswersUnless.not_refused {P : Prop} {s : State} {r : Result} (h : AnswersUnless P s r) (e : Refusal) :
    r ≠ .refused e := by
  obtain ⟨t, rfl⟩ | ⟨rfl, -⟩ := h <;> nofun

theorem AnswersUnless.of_fault {P : Prop} {s : State} {r : Result} (h : AnswersUnless P s r) {f : Fault}
    (hr : r = .fault f) : f = .endlessScan ∧ Idle s ∧ s.strm.cycle ≠ [] ∧ P := by
  subst hr
  obtain ⟨t, ht⟩ | ⟨hf, hrest⟩ := h
  · cases ht
  · cases hf
    exact ⟨rfl, hrest⟩

/-- Settles O13: every instruction but a scan answers, and a scan does unless its search fails on an infinite stream. -/
theorem onlyEndlessScansStop : Obligations.OnlyEndlessScansStop := by
  intro s
  refine ⟨fun i e => (exec_answersUnless i s).not_refused e, fun i f hf => ?stops,
    ⟨fun hf => ((scanRoc_answersUnless s).of_fault hf).2, fun ⟨hi, hc, hnone⟩ => ?roc⟩,
    ⟨fun hf => ((scanMs_answersUnless s).of_fault hf).2, fun ⟨hi, hc, hnone⟩ => ?ms⟩⟩
  case stops =>
    obtain ⟨hendless, -, hc, hnone⟩ := (exec_answersUnless i s).of_fault hf
    exact ⟨hendless, hc, hnone⟩
  case roc =>
    rw [exec, execScanRoc, whenIdle_of_idle hi, findRocStart_of_none hnone]
    exact if_neg hc
  case ms =>
    rw [exec, execScanMs, whenIdle_of_idle hi, findMsStart_of_none hnone]
    exact if_neg hc

end Sys2Proof.Machine

/-! PROOFS of the family 60_exceptions: the housekeeping operations (R320 to R322), an unassigned command (R323), and what
a pending fault blocks (R304). -/

namespace Sys2Proof.Machine

/-- Settles O10: each of the three is its own update of the state, and asks for no state to be idle. -/
theorem housekeepingActs : Obligations.HousekeepingActs :=
  fun _ _ => ⟨⟨rfl, rfl⟩, ⟨rfl, rfl⟩, ⟨rfl, rfl⟩⟩

/-! ### The command port -/

/-- A write to `CMD` decodes and runs the number, accepted or not (R26, R304). -/
theorem step_of_writeCmd {s : State} {c : BitVec 6} {rest : List HostAction} (hs : s.script = .writeCmd c :: rest) :
    step s = runCoded (.cmd c) (acceptCommand c { s with script := rest }) :=
  step_of_script_cons hs

theorem acceptCommand_of_idle {s : State} (h : Idle s) (c : BitVec 6) : acceptCommand c s = { s with cmd := c } := by
  rw [acceptCommand_eq, if_neg fun hb => hb.1 h]

theorem acceptCommand_of_low {c : BitVec 6} (h : c.toNat ≤ 2) (s : State) : acceptCommand c s = { s with cmd := c } := by
  rw [acceptCommand_eq, if_neg fun hb => Nat.not_lt.2 h hb.2]

theorem acceptCommand_of_blocked {s : State} (h : s.fault ≠ none) {c : BitVec 6} (hc : 2 < c.toNat) :
    acceptCommand c s = s := by
  rw [acceptCommand_eq, if_pos ⟨h, hc⟩]

/-- An unassigned number is none of the table's, and none of the three that act while a fault is pending. -/
theorem decodeCommand_of_unassigned : ∀ c : BitVec 6, Unassigned c →
    decodeCommand c = .unassignedCommand c ∧ 2 < c.toNat := by
  decide

theorem runCoded_of_unassigned {c : BitVec 6} (h : Unassigned c) (s : State) :
    runCoded (.cmd c) s = badCommand s := by
  simp only [runCoded, decode, (decodeCommand_of_unassigned c h).1, rejected]

/-- Settles O8: the number is accepted where no fault is pending, and starts `badCommand`. -/
theorem unassignedCommandSetsBadCmd : Obligations.UnassignedCommandSetsBadCmd := by
  intro s c rest hs hc
  rw [step_of_writeCmd hs, runCoded_of_unassigned hc]
  refine ⟨fun hidle => ⟨{ s with script := rest, cmd := c, log := s.log.setBadCmd }, ?idle, rfl⟩, fun hfault => ?pending⟩
  case idle =>
    rw [acceptCommand_of_idle (s := { s with script := rest }) hidle, badCommand]
    exact whenIdle_of_idle (s := { s with script := rest, cmd := c }) hidle _
  case pending =>
    rw [acceptCommand_of_blocked (s := { s with script := rest }) hfault (decodeCommand_of_unassigned c hc).2]
    exact whenIdle_of_fault (s := { s with script := rest }) hfault _

/-! ### A pending fault -/

section
variable {s : State} (h : s.fault ≠ none)
include h

/-- A pending fault blocks every instruction but the housekeeping ones and the four pseudo-elements: each of
them, walked elements included, runs under `whenIdle` (R304). -/
theorem exec_of_fault {i : Instr} (hnop : i ≠ .nop) (hclrFault : i ≠ .clrFault) (hclrLog : i ≠ .clrLog)
    (hblock : isPseudo i = false) : exec i s = .next s := by
  unfold exec
  cases i with
  | nop => exact absurd rfl hnop
  | clrFault => exact absurd rfl hclrFault
  | clrLog => exact absurd rfl hclrLog
  | pad | crc32 | crc8 | raw => cases hblock
  | _ => exact whenIdle_of_fault h _

/-- A number above 2 starts nothing: it names an operation that waits, or none (R304, R323). -/
theorem runCoded_of_fault {c : BitVec 6} (hc : 2 < c.toNat) : runCoded (.cmd c) s = .next s := by
  have htable : ∀ x ∈ commandTable,
      2 < x.1 → x.2 ≠ .nop ∧ x.2 ≠ .clrFault ∧ x.2 ≠ .clrLog ∧ isPseudo x.2 = false := by decide
  simp only [runCoded, decode, decodeCommand]
  cases hl : commandTable.lookup c.toNat with
  | none => exact whenIdle_of_fault h _
  | some i =>
    obtain ⟨l, r, hsplit, -⟩ := List.lookup_eq_some_iff.1 hl
    have hmem : (c.toNat, i) ∈ commandTable := hsplit ▸ List.mem_append_right l List.mem_cons_self
    obtain ⟨hnop, hclrFault, hclrLog, hblock⟩ := htable _ hmem hc
    exact exec_of_fault h hnop hclrFault hclrLog hblock

end

/-- Settles O9: a blocked number changes nothing, not even `CMD`; the three housekeeping numbers run. -/
theorem pendingFaultBlocks : Obligations.PendingFaultBlocks := by
  intro s h
  refine ⟨fun i => exec_of_fault h, fun c rest hs => ⟨fun hc => ?blocked, ?_, ?_, ?_⟩⟩
  case blocked =>
    rw [step_of_writeCmd hs, acceptCommand_of_blocked (s := { s with script := rest }) h hc]
    exact runCoded_of_fault (s := { s with script := rest }) h hc
  all_goals
    rintro rfl
    rw [step_of_writeCmd hs, acceptCommand_of_low (by decide)]
    rfl

end Sys2Proof.Machine
